-- ==== Sys2Proof/Word.lean ====
section
/-! DEFINITION. The widths of NH-RA's data (spec/00_scope.md R7, R10; spec/10_state.md R101). -/
namespace Sys2Proof

/-- One byte: a bus byte lane, a seed or key byte, an XOF or RNG byte. -/
abbrev Byte := BitVec 8

/-- One word of a polynomial buffer (R7, R101). -/
abbrev Word16 := BitVec 16

/-- One word of the host bus: a register, a command word, a pair of buffer words (R10, R201). -/
abbrev Word32 := BitVec 32

/-- A byte offset in the host register space (R10, R200 item 1). -/
abbrev Offset := BitVec 16

/-- A 4-bit buffer index field RD, RS1 or RS2 (R300, R301). -/
abbrev BufIdx := BitVec 4

end Sys2Proof
end

