-- ==== Sys2Proof/Machine/Arith.lean ====
section
/-! DEFINITION. The fixed constants (spec/00_scope.md R8), the pseudocode primitives (R12) and the reductions
(spec/40_reduction.md R402 to R407). Arithmetic is over the natural numbers; a width stands only where the rule writes
a trunc. -/
namespace Sys2Proof.Machine

/-- N of R8. -/
abbrev N : Nat := 1024

/-- Q of R8. -/
abbrev Q : Nat := 12289

/-- RLOG of R8. -/
abbrev RLOG : Nat := 18

/-- R of R8. -/
abbrev R : Nat := 2 ^ RLOG

/-- QINV of R8, which is −Q⁻¹ mod 2^18 (R402). -/
abbrev QINV : Nat := 12287

/-- R2MODQ of R8. -/
abbrev R2MODQ : Nat := 3186

/-- PSI of R8. -/
abbrev PSI : Nat := 7

/-- OMEGA of R8. -/
abbrev OMEGA : Nat := 49

/-- PSI_INV of R8. -/
abbrev PSI_INV : Nat := 8778

/-- OMEGA_INV of R8. -/
abbrev OMEGA_INV : Nat := 1254

/-- NINV of R8. -/
abbrev NINV : Nat := 12277

/-- trunc_n(v) of R12. -/
def trunc (n v : Nat) : Nat := v % 2 ^ n

/-- MR(a) of R403: Montgomery reduction, with the 33-bit sum of C3. -/
def mr (a : Nat) : Nat :=
  trunc 16 ((a + trunc 18 (a * QINV) * Q) >>> 18)

/-- BR(a) of R405: Barrett reduction of a 16-bit value. -/
def br (a : Nat) : Nat := a - (a * 5) >>> 16 * Q

/-- `(t >= Q) ? t - Q : t`, the conditional subtraction of R407 and R511. -/
def subQ (t : Nat) : Nat := if Q ≤ t then t - Q else t

/-- CANON16(a) of R407. -/
def canon16 (a : Nat) : Nat := subQ (br a)

end Sys2Proof.Machine
end

