-- ==== Sys2Proof/Syntax.lean ====
section
/-! DEFINITION. The commands of command-set version 1 (spec/30_encoding.md R303), one constructor per row of
spec/opcode_table.json, and the command errors of spec/60_exceptions.md R1001. -/
namespace Sys2Proof

/-- A command of R303. The operands are the used buffer index fields, in the order RD, RS1, RS2 (R305). -/
inductive Instr where
  /-- NOP (R910). -/
  | nop
  /-- SMONT (R410). -/
  | smont
  /-- SBARR (R411). -/
  | sbarr
  /-- NTT (R510). -/
  | ntt     (rd rs1 : BufIdx)
  /-- INTT (R511). -/
  | intt    (rd rs1 : BufIdx)
  /-- PMUL (R601). -/
  | pmul    (rd rs1 rs2 : BufIdx)
  /-- PADD (R602). -/
  | padd    (rd rs1 rs2 : BufIdx)
  /-- CANON (R603). -/
  | canon   (rd rs1 : BufIdx)
  /-- UNIFORM (R701). -/
  | uniform (rd : BufIdx)
  /-- NOISE (R711). -/
  | noise   (rd : BufIdx)
  /-- HELPREC (R810). -/
  | helprec (rd rs1 : BufIdx)
  /-- REC (R811). -/
  | reconcile (rs1 rs2 : BufIdx)
  deriving DecidableEq, Repr

/-- The errors a command can end with (R1001). -/
inductive CmdError where
  | illegalOpcode
  | resfield
  | badIndex
  | entropyFail
  deriving DecidableEq, Repr

end Sys2Proof
end

