-- ==== Sys2Proof/WellFormed.lean ====
section
/-! DEFINITION. Which commands are well formed under a number of buffers NPOLY: a used buffer field is legal only
below NPOLY (spec/30_encoding.md R301, R304). -/
namespace Sys2Proof

/-- The used buffer fields of a command, in the order RD, RS1, RS2 (R303). -/
def Instr.usedFields : Instr → List BufIdx
  | .nop            => []
  | .smont          => []
  | .sbarr          => []
  | .ntt rd rs1     => [rd, rs1]
  | .intt rd rs1    => [rd, rs1]
  | .pmul rd rs1 rs2 => [rd, rs1, rs2]
  | .padd rd rs1 rs2 => [rd, rs1, rs2]
  | .canon rd rs1   => [rd, rs1]
  | .uniform rd     => [rd]
  | .noise rd       => [rd]
  | .helprec rd rs1 => [rd, rs1]
  | .reconcile rs1 rs2    => [rs1, rs2]

/-- Every used field names a buffer that exists (R301). -/
def Instr.wf (npoly : Nat) (i : Instr) : Bool :=
  i.usedFields.all fun f => decide (f.toNat < npoly)

end Sys2Proof
end

