-- ==== Sys2Proof/Decode.lean ====
section
/-! DEFINITION. The 32-bit command word (spec/30_encoding.md R300 to R304), its decoder (spec/60_exceptions.md R1002),
and the encoder (R305). Every word is either exactly one command or refused by exactly one error. -/
namespace Sys2Proof

/-- Byte b of a 32-bit word is bits 8b+7 down to 8b (R204). -/
def wordOfBytes (b0 b1 b2 b3 : Byte) : Word32 := b3 ++ b2 ++ b1 ++ b0

/-- OPC, bits 31:24 (R300). -/
def fieldOpc (w : Word32) : BitVec 8 := w.extractLsb' 24 8

/-- RD, bits 23:20 (R300). -/
def fieldRd (w : Word32) : BufIdx := w.extractLsb' 20 4

/-- RS1, bits 19:16 (R300). -/
def fieldRs1 (w : Word32) : BufIdx := w.extractLsb' 16 4

/-- RS2, bits 15:12 (R300). -/
def fieldRs2 (w : Word32) : BufIdx := w.extractLsb' 12 4

/-- ERRCODE of a command error (R1001). -/
def CmdError.code : CmdError → BitVec 4
  | .illegalOpcode => 1
  | .resfield      => 2
  | .badIndex      => 3
  | .entropyFail   => 4

/-- One row of the opcode map (R303): a word is the row's command exactly when `w &&& mask = pattern`. -/
structure OpcodeRow where
  pattern : Word32
  mask    : Word32
  /-- The command, from the fields RD, RS1 and RS2. -/
  build   : BufIdx → BufIdx → BufIdx → Instr

/-- The opcode map of R303. -/
def opcodeTable : List OpcodeRow :=
  [ ⟨0x00000000, 0xFFFFFFFF, fun _ _ _ => .nop⟩,
    ⟨0x01000000, 0xFFFFFFFF, fun _ _ _ => .smont⟩,
    ⟨0x02000000, 0xFFFFFFFF, fun _ _ _ => .sbarr⟩,
    ⟨0x10000000, 0xFF00FFFF, fun d a _ => .ntt d a⟩,
    ⟨0x11000000, 0xFF00FFFF, fun d a _ => .intt d a⟩,
    ⟨0x20000000, 0xFF000FFF, fun d a b => .pmul d a b⟩,
    ⟨0x21000000, 0xFF000FFF, fun d a b => .padd d a b⟩,
    ⟨0x22000000, 0xFF00FFFF, fun d a _ => .canon d a⟩,
    ⟨0x30000000, 0xFF0FFFFF, fun d _ _ => .uniform d⟩,
    ⟨0x31000000, 0xFF0FFFFF, fun d _ _ => .noise d⟩,
    ⟨0x40000000, 0xFF00FFFF, fun d a _ => .helprec d a⟩,
    ⟨0x41000000, 0xFFF00FFF, fun _ a b => .reconcile a b⟩ ]

/-- The row whose opcode is OPC, if OPC is assigned (R303, R304). -/
def rowOf (opc : BitVec 8) : Option OpcodeRow :=
  opcodeTable.find? fun r => fieldOpc r.pattern == opc

/-- The part of R1002's Decode that reads only the word: an unassigned OPC is ILLEGAL_OPCODE, and an assigned OPC
whose word fails the row's mask is RESFIELD. -/
def decodeWord (w : Word32) : Except CmdError Instr :=
  match rowOf (fieldOpc w) with
  | none   => .error .illegalOpcode
  | some r =>
    if w &&& r.mask = r.pattern then .ok (r.build (fieldRd w) (fieldRs1 w) (fieldRs2 w))
    else .error .resfield

/-- R1002's Decode: the command a word is, or the single error that applies, checked in the order ILLEGAL_OPCODE,
RESFIELD, BAD_INDEX. -/
def decode (npoly : Nat) (w : Word32) : Except CmdError Instr :=
  match decodeWord w with
  | .error e => .error e
  | .ok i    => if i.wf npoly then .ok i else .error .badIndex

/-- A word from its opcode and its three index fields, RSVD = 0 (R300). -/
def assemble (opc : BitVec 8) (rd rs1 rs2 : BufIdx) : Word32 :=
  opc ++ rd ++ rs1 ++ rs2 ++ (0 : BitVec 12)

/-- The word a command assembles to; unused fields are 0 (R305). -/
def encode : Instr → Word32
  | .nop             => assemble 0x00 0 0 0
  | .smont           => assemble 0x01 0 0 0
  | .sbarr           => assemble 0x02 0 0 0
  | .ntt rd rs1      => assemble 0x10 rd rs1 0
  | .intt rd rs1     => assemble 0x11 rd rs1 0
  | .pmul rd rs1 rs2 => assemble 0x20 rd rs1 rs2
  | .padd rd rs1 rs2 => assemble 0x21 rd rs1 rs2
  | .canon rd rs1    => assemble 0x22 rd rs1 0
  | .uniform rd      => assemble 0x30 rd 0 0
  | .noise rd        => assemble 0x31 rd 0 0
  | .helprec rd rs1  => assemble 0x40 rd rs1 0
  | .reconcile rs1 rs2     => assemble 0x41 0 rs1 rs2

/-- The command the decoder reads from the first `nbits` bits of `w`, every higher bit 0, bit 0 of `w` being bit 0 of
the one command word. -/
def decodeTableWord (nbits w : Nat) : Option Instr :=
  match decodeWord (BitVec.ofNat 32 (w % 2 ^ nbits)) with
  | .ok i    => some i
  | .error _ => none

end Sys2Proof
end

