-- ==== Sys2Proof/Config.lean ====
section
/-! DEFINITION. What an implementation of NH-RA fixes (spec/00_scope.md R9) and the free values: constants
without a body that stand for every value the spec leaves arbitrary (spec/93_implementation_defined.md). -/
namespace Sys2Proof

/-- UNIFORM_MODE of R9: the rejection bound of UNIFORM (R701). -/
inductive UniformMode where
  | mask14
  | mult5q
  deriving DecidableEq, Repr

/-- The contents of the table ROM (R502): four arrays of 16-bit words. -/
structure Tables where
  psiBr    : Vector Word16 1024
  omega    : Vector Word16 512
  omegaInv : Vector Word16 512
  psiInv   : Vector Word16 1024
  deriving DecidableEq, Repr

/-- TABLES of R9: the construction of R502, or other contents that meet R509. -/
inductive TableRom where
  | standard
  | custom (t : Tables)
  deriving DecidableEq, Repr

/-- XOF of R9, the black box behind the XOF port (R700). `shake128` is the stated default (notes/assumptions/3.md,
PRESUMED). `playback head cycle` is a stream that is the same for every seed: `head`, then `cycle` over and over (the
toy streams of spec/95_test_vectors.md). `blackBox` is an arbitrary function of the seed and the position. -/
inductive XofSource where
  | shake128
  | playback (head cycle : List Byte)
  | blackBox
  deriving DecidableEq, Repr

/-- The parameters of R9 that change results. LATENCY is no field: when a command completes is the order of the
pending events of the state (notes/assumptions/2.md). RNG is the field `rng` of the state. -/
structure Params where
  /-- NPOLY, 1 to 16. -/
  npoly       : Nat
  /-- NTT_FWD_PERMUTE. -/
  fwdPermute  : Bool
  /-- UNIFORM_MODE. -/
  uniformMode : UniformMode
  /-- REC_INVERT. -/
  recInvert   : Bool
  /-- TABLES. -/
  tables      : TableRom
  /-- XOF. -/
  xof         : XofSource
  deriving DecidableEq, Repr

/-- The defaults that R9 states. -/
def Params.standard : Params where
  npoly       := 8
  fwdPermute  := true
  uniformMode := .mask14
  recInvert   := false
  tables      := .standard
  xof         := .shake128

namespace Config

/-- What a byte of the buffer file that holds no value reads as (U1, U4): the step number, then the byte's address.
A free value. -/
opaque freeByte : Nat → Nat → Byte

/-- What a host read of the POLY window, KEYk or SRES returns while BUSY = 1 (U2): the step number, then the offset.
A free value. -/
opaque busyRead : Nat → Nat → Word32

/-- How many RNG answers a command aborted by a reset had drawn (U5), before the bound of R1101 is applied: the step
number. A free value. -/
opaque abortedDraws : Nat → Nat

/-- Answer number k of the external random source (R702): a byte, or `none` for FAIL. Any sequence of answers. -/
opaque rngAnswer : Nat → Option Byte

/-- Byte k of the stream of an arbitrary XOF for a seed (R700). -/
opaque xofByte : List Byte → Nat → Byte

end Config
end Sys2Proof
end

