-- ==== Sys2Proof/Machine/State.lean ====
section
/-! DEFINITION. NH-RA's state (spec/10_state.md R100), with the model's own fields beside it: the parameters of
spec/00_scope.md R9, the external random source (R702), the order in which the agents act (R900), the reply on the bus
and the step number that free values are drawn with. -/
namespace Sys2Proof.Machine

/-- The polynomial buffer file (R101) as bytes of the POLY window (R203): byte b of word i of buffer p stands at the
address 0x1000 + 0x800 p + 2 i + b. An address that is not listed holds no value (R124). Canonical form: the addresses
rise strictly. -/
abbrev Memory := List Host.Cell

/-- ENG (R130). `examined` is the progress RUN may carry inside a command: how many XOF words UNIFORM has examined
without completing (R703); 0 for every other command. -/
inductive Engine where
  | idle
  | run (cmd : Word32) (examined : Nat)
  deriving DecidableEq, Repr

/-- The fields of STATUS (R116). -/
structure Status where
  busy    : Bool
  done    : Bool
  err     : Bool
  cmdovf  : Bool
  errcode : BitVec 4
  deriving DecidableEq, Repr

/-- The RNG port (R702): the answers that wait at the port, the next one first, and how many answers it has given.
When none waits, the answer is `Config.rngAnswer` of the position. -/
structure Rng where
  answers : List (Option Byte)
  pos     : Nat
  deriving DecidableEq, Repr

/-- The shape of a bus access (R201): the byte offset, the number of bytes, the byte enables. -/
structure Access where
  offset  : Offset
  bytes   : Nat
  enables : BitVec 4
  deriving DecidableEq, Repr

/-- The steps of R900. -/
inductive Event where
  /-- HostRead, of any shape. -/
  | read (a : Access)
  /-- HostWrite, of any shape. -/
  | write (a : Access) (v : Word32)
  /-- The engine's turn: Complete, where it is enabled. -/
  | complete
  /-- A poll of the host's WAIT (spec/30_encoding.md R306): HostRead of STATUS, and WAIT goes on where bit 0 read 1.
  `latency` is how many more such polls come before the engine's turn (notes/assumptions/2.md). -/
  | wait (latency : Nat)
  /-- HardReset. -/
  | hardReset
  deriving DecidableEq, Repr

/-- What the host bus answers in a step (R201, R206). -/
inductive BusReply where
  /-- No bus access took place in the step. -/
  | quiet
  /-- An accepted read, with the value read. -/
  | data (v : Word32)
  /-- An accepted write. -/
  | accepted
  /-- A bus error (R201). -/
  | busError
  deriving DecidableEq, Repr

/-- The machine. -/
structure State where
  /-- P, the polynomial buffer file (R101). -/
  mem     : Memory
  /-- SEED0..SEED7 (R120). -/
  seed    : Vector Word32 8
  /-- KEY0..KEY7 (R121). -/
  key     : Vector Word32 8
  /-- SOPA (R122). -/
  sopa    : Word32
  /-- SRES[15:0] (R123); SRES[31:16] reads 0. -/
  sres    : Word16
  /-- CTRL.IE (R115). -/
  ie      : Bool
  /-- STATUS (R116). -/
  status  : Status
  /-- ENG (R130). -/
  eng     : Engine
  /-- The parameters (R9), which ID, CFG0 and CFG1 report (R111 to R113). -/
  cfg     : Params
  /-- The RNG port (R702), an external agent. -/
  rng     : Rng
  /-- The steps to come, the next one first (R900). When there is none, the engine has the turn. -/
  pending : List Event
  /-- The reply on the bus in the last step. -/
  bus     : BusReply
  /-- How many steps have been taken; free values are drawn with it. -/
  tick    : Nat
  deriving DecidableEq, Repr

/-- Why the machine stops. It has no constructor: NH-RA takes no trap (R1008), every command's arithmetic is total
(R1004), and every other end of a command or of a bus access is a next state. -/
inductive Fault where
  deriving DecidableEq, Repr

/-- Why an instruction is refused. -/
inductive Refusal where
  /-- Raised by `exec` for a command that has no meaning in the model. Safe: the run stops. No arm of `exec` raises it. -/
  | notModelled (mnemonic : String)
  deriving DecidableEq, Repr

/-- The machine right after a hardware reset (R134, R1100), with the default parameters (R9), no answer waiting at the
RNG port and no step pending. -/
def State.reset : State where
  mem     := []
  seed    := #v[0, 0, 0, 0, 0, 0, 0, 0]
  key     := #v[0, 0, 0, 0, 0, 0, 0, 0]
  sopa    := 0
  sres    := 0
  ie      := false
  status  := ⟨false, false, false, false, 0⟩
  eng     := .idle
  cfg     := Params.standard
  rng     := ⟨[], 0⟩
  pending := []
  bus     := .quiet
  tick    := 0

end Sys2Proof.Machine
end

