-- ==== Sys2Proof/Machine/Flags.lean ====
section
/-! DEFINITION. STATUS: every event that writes it (spec/10_state.md R116, R117), the word a host reads, and the IRQ
line (R119). -/
namespace Sys2Proof.Machine

/-- A Boolean as bit k of a 32-bit word. -/
def bitAt (k : Nat) (b : Bool) : Word32 := if b then BitVec.twoPow 32 k else 0

/-- What a host read of STATUS returns (R116): reserved bits read 0. -/
def Status.word (t : Status) : Word32 :=
  bitAt 0 t.busy ||| bitAt 1 t.done ||| bitAt 2 t.err ||| bitAt 3 t.cmdovf ||| (t.errcode.setWidth 32 <<< 4)

/-- The first step of acceptance (R902): DONE, ERR and ERRCODE become 0; CMDOVF stays. -/
def Status.cleared (t : Status) : Status :=
  { t with done := false, err := false, errcode := 0 }

/-- Acceptance of a legal command, after the clearing: BUSY becomes 1 (R902). -/
def Status.started (t : Status) : Status :=
  { t.cleared with busy := true }

/-- Completion without error (R904). -/
def Status.completed (t : Status) : Status :=
  { t with done := true, busy := false }

/-- The end of a command with an error (R902, R904, R1000 item 1). -/
def Status.failed (e : CmdError) (t : Status) : Status :=
  { t with done := true, busy := false, err := true, errcode := e.code }

/-- A CMD write while BUSY = 1 (R118). -/
def Status.overrun (t : Status) : Status :=
  { t with cmdovf := true }

/-- A host write of v to STATUS (R116): write 1 to clear DONE, ERR and CMDOVF; clearing ERR clears ERRCODE. -/
def Status.writeOneToClear (v : Word32) (t : Status) : Status :=
  { t with
    done    := t.done && !v.getLsbD 1
    err     := t.err && !v.getLsbD 2
    cmdovf  := t.cmdovf && !v.getLsbD 3
    errcode := if v.getLsbD 2 then 0 else t.errcode }

/-- STATUS after a reset (R134). -/
def Status.zero : Status := ⟨false, false, false, false, 0⟩

/-- The IRQ line (R119): a level computed from CTRL.IE, DONE and ERR. -/
def State.irq (s : State) : Bool := s.ie && (s.status.done || s.status.err)

end Sys2Proof.Machine
end

