-- ==== Sys2Proof/Machine/Ops.lean ====
section
/-! DEFINITION. The named operations over the buffer file, the RNG port and the engine, and the one operation that ends
a command with an error (spec/60_exceptions.md R1000). -/
namespace Sys2Proof.Machine

/-! ## The buffer file as bytes -/

/-- The byte at an address, or none where the address holds no value. -/
def Memory.read : Memory → Nat → Option Byte
  | [], _ => none
  | c :: m, a => if c.1 = a then some c.2 else Memory.read m a

/-- The canonical form: the addresses rise strictly. -/
def Memory.wf : Memory → Bool
  | [] => true
  | c :: m => m.all (fun c' => decide (c.1 < c'.1)) && Memory.wf m

/-- The cells below an address. -/
def Memory.below (m : Memory) (a : Nat) : Memory := m.filter fun c => decide (c.1 < a)

/-- The cells from an address on. -/
def Memory.fromOn (m : Memory) (a : Nat) : Memory := m.filter fun c => decide (a ≤ c.1)

/-- Consecutive cells that hold the given bytes, the first at address a. -/
def Memory.run (a : Nat) : List Byte → Memory
  | [] => []
  | b :: bs => (a, b) :: Memory.run (a + 1) bs

/-- Store consecutive bytes, the first at address a. -/
def Memory.store (m : Memory) (a : Nat) (bs : List Byte) : Memory :=
  m.below a ++ Memory.run a bs ++ m.fromOn (a + bs.length)

/-- Make the n addresses from a on hold no value. -/
def Memory.forget (m : Memory) (a n : Nat) : Memory :=
  m.below a ++ m.fromOn (a + n)

/-- The bytes of n consecutive addresses read off cells in rising order; `fill` gives the byte of an address that holds
no value. -/
def Memory.walk (fill : Nat → Byte) : Nat → Nat → Memory → List Byte
  | 0, _, _ => []
  | n + 1, a, [] => fill a :: Memory.walk fill n (a + 1) []
  | n + 1, a, c :: m =>
    if c.1 = a then c.2 :: Memory.walk fill n (a + 1) m
    else fill a :: Memory.walk fill n (a + 1) (c :: m)

/-- The bytes of the n addresses from a on. -/
def Memory.load (fill : Nat → Byte) (m : Memory) (a n : Nat) : List Byte :=
  Memory.walk fill n a ((m.fromOn a).below (a + n))

/-! ## Words and bytes (R204: little-endian) -/

/-- 16-bit words from bytes, the low byte first. -/
def wordsOfBytes : List Byte → List Nat
  | lo :: hi :: bs => (lo.toNat + 256 * hi.toNat) :: wordsOfBytes bs
  | _ => []

/-- The bytes of 16-bit words, the low byte first. -/
def bytesOfWords : List Nat → List Byte
  | [] => []
  | w :: ws => BitVec.ofNat 8 w :: BitVec.ofNat 8 (w / 256) :: bytesOfWords ws

/-- The four bytes of a 32-bit word, byte 0 first. -/
def bytesOfWord32 (w : Word32) : List Byte :=
  [w.extractLsb' 0 8, w.extractLsb' 8 8, w.extractLsb' 16 8, w.extractLsb' 24 8]

/-! ## Polynomial buffers (R101, R203) -/

/-- The address of word 0 of buffer p (R203). -/
def bufBase (p : Nat) : Nat := 0x1000 + 0x800 * p

/-- The byte an address reads as when it holds no value: a free value of this step (U1). -/
def State.fill (s : State) (a : Nat) : Byte := Config.freeByte s.tick a

/-- P[p][0..1023]: the 1024 words of a buffer, each the number it holds (R7). -/
def State.poly (s : State) (p : BufIdx) : List Nat :=
  wordsOfBytes (s.mem.load s.fill (bufBase p.toNat) 2048)

/-- `P[p][0..1023] <- ws`. -/
def State.writePoly (s : State) (p : BufIdx) (ws : List Nat) : State :=
  { s with mem := s.mem.store (bufBase p.toNat) (bytesOfWords ws) }

/-- `P[p][0..1023] <- unspecified` (R1101). -/
def State.forgetPoly (s : State) (p : BufIdx) : State :=
  { s with mem := s.mem.forget (bufBase p.toNat) 2048 }

/-- MemRead of a pair of buffer words (R203). -/
def State.readPair (s : State) (p w : Nat) : Word32 :=
  match s.mem.load s.fill (bufBase p + 4 * w) 4 with
  | [b0, b1, b2, b3] => wordOfBytes b0 b1 b2 b3
  | _ => 0

/-- MemWrite of a pair of buffer words (R203). -/
def State.writePair (s : State) (p w : Nat) (v : Word32) : State :=
  { s with mem := s.mem.store (bufBase p + 4 * w) (bytesOfWord32 v) }

/-! ## The RNG port (R702) -/

/-- RngByte(): the answer (none for FAIL), and the port after it. -/
def Rng.next (r : Rng) : Option Byte × Rng :=
  match r.answers with
  | [] => (Config.rngAnswer r.pos, ⟨[], r.pos + 1⟩)
  | a :: rest => (a, ⟨rest, r.pos + 1⟩)

/-- n calls of RngByte(), up to the first FAIL: the bytes, or none after a FAIL, and the port after the calls made. -/
def Rng.draw : Nat → Rng → Option (List Byte) × Rng
  | 0, r => (some [], r)
  | n + 1, r =>
    match r.next with
    | (none, r') => (none, r')
    | (some b, r') =>
      match Rng.draw n r' with
      | (none, r'') => (none, r'')
      | (some bs, r'') => (some (b :: bs), r'')

/-- The port after n answers have been taken, whatever they are. -/
def Rng.skip (n : Nat) (r : Rng) : Rng := ⟨r.answers.drop n, r.pos + n⟩

/-! ## The end of a command -/

/-- The last line of Complete without an error: DONE <- 1, BUSY <- 0, ENG <- IDLE (R904). -/
def State.finish (s : State) : State :=
  { s with status := s.status.completed, eng := .idle }

/-- The end of a command with an error, at acceptance or by `raise CmdError(e)`: only STATUS and ENG change (R1000).
It is the one way NH-RA reports an exception; there is no trap (R1008). -/
def State.raise (s : State) (e : CmdError) : State :=
  { s with status := s.status.failed e, eng := .idle }

/-- The host's acknowledgement of a report, which is what NH-RA has for a return from an exception (R1009): a W1C write
of STATUS. -/
def State.acknowledge (s : State) (v : Word32) : State :=
  { s with status := s.status.writeOneToClear v }

/-- How many XOF words the running command has examined (R130). -/
def State.examined (s : State) : Nat :=
  match s.eng with
  | .idle => 0
  | .run _ n => n

/-- The engine goes on running the command, having examined n XOF words (R703: BUSY stays 1). -/
def State.keepRunning (s : State) (i : Instr) (n : Nat) : State :=
  { s with status := { s.status with busy := true }, eng := .run (encode i) n }

end Sys2Proof.Machine
end

