-- ==== Sys2Proof/Machine/Operands.lean ====
section
/-! DEFINITION. The operand forms: buffer fields (spec/30_encoding.md R301), the scalar operand SOPA (spec/10_state.md
R122) and the seed (R120), and the shapes of a command's result. -/
namespace Sys2Proof.Machine

/-- Run a command whose used buffer fields are `fields`: a field of NPOLY or more ends it with BAD_INDEX (R301, R1001).
Acceptance has already checked this for every command that runs (R902). -/
def State.withFields (s : State) (fields : List BufIdx) (k : State → State) : State :=
  if fields.all fun f => decide (f.toNat < s.cfg.npoly) then k s else s.raise .badIndex

/-- `P[rd][0..1023] <- ws`, then the end of the command (R904). -/
def State.finishPoly (s : State) (rd : BufIdx) (ws : List Nat) : State :=
  (s.writePoly rd ws).finish

/-- `SRES <- zext_32(r)`, then the end of the command (R123, R904). -/
def State.finishScalar (s : State) (r : Nat) : State :=
  { s with sres := BitVec.ofNat 16 r }.finish

/-- `KEY0..7 <- k`, then the end of the command (R121, R904). -/
def State.finishKey (s : State) (k : Vector Word32 8) : State :=
  { s with key := k }.finish

/-- SOPA, all 32 bits (R122, R410). -/
def State.scalar32 (s : State) : Nat := s.sopa.toNat

/-- SOPA[15:0] (R122, R411). -/
def State.scalar16 (s : State) : Nat := (s.sopa.extractLsb' 0 16).toNat

/-- Seed bytes 0..31: byte j is SEED(j div 4)[8 (j mod 4) + 7 : 8 (j mod 4)] (R120). -/
def State.seedBytes (s : State) : List Byte := s.seed.toList.flatMap bytesOfWord32

/-- Key bits as KEY0..7: bit i is bit i mod 32 of KEY(i div 32), which is bit (i mod 8) of key byte (i div 8) (R121). -/
def keyWord (bits : List Bool) (k : Nat) : Word32 :=
  ((bits.drop (32 * k)).take 32).foldr (fun b acc => (acc <<< 1) ||| bitAt 0 b) 0

/-- The eight key registers from 256 key bits (R121). -/
def keyOfBits (bits : List Bool) : Vector Word32 8 :=
  #v[keyWord bits 0, keyWord bits 1, keyWord bits 2, keyWord bits 3,
     keyWord bits 4, keyWord bits 5, keyWord bits 6, keyWord bits 7]

end Sys2Proof.Machine
end

