-- ==== Sys2Proof/Machine/Bus.lean ====
section
/-! DEFINITION. The host's side: the register map (spec/10_state.md R110 to R123), host reads and writes
(spec/20_memory.md R201 to R206), acceptance of a command (spec/49_system.md R902), and the two resets
(spec/70_reset_and_hazards.md R1100, R1101). -/
namespace Sys2Proof.Machine

/-- What stands at an aligned offset of the host register space (R110, R202, R203). -/
inductive HostReg where
  | id
  | cfg0
  | cfg1
  | ctrl
  | status
  | cmd
  | sopa
  | sres
  | seed (k : Fin 8)
  | key (k : Fin 8)
  /-- Words 2w and 2w+1 of buffer p. -/
  | poly (p w : Nat)
  | reserved
  deriving DecidableEq, Repr

/-- The register map of R110; the POLY range of a buffer index of NPOLY or more, and 0x9000 on, are reserved (R114). -/
def hostReg (npoly off : Nat) : HostReg :=
  if off = 0x000 then .id
  else if off = 0x004 then .cfg0
  else if off = 0x008 then .cfg1
  else if off = 0x010 then .ctrl
  else if off = 0x014 then .status
  else if off = 0x018 then .cmd
  else if off = 0x01C then .sopa
  else if off = 0x020 then .sres
  else if 0x040 ≤ off ∧ off < 0x060 then .seed (Fin.ofNat 8 ((off - 0x040) / 4))
  else if 0x060 ≤ off ∧ off < 0x080 then .key (Fin.ofNat 8 ((off - 0x060) / 4))
  else if 0x1000 ≤ off ∧ off < 0x1000 + 0x800 * npoly then
    .poly ((off - 0x1000) / 0x800) ((off - 0x1000) % 0x800 / 4)
  else .reserved

/-- ID (R111). -/
def idWord : Word32 := 0x4E480001

/-- CFG0 (R112): NPOLY, LOG2N = 10 and Q. -/
def cfg0Word (p : Params) : Word32 :=
  BitVec.ofNat 32 (p.npoly % 256 + 10 * 2 ^ 8 + Q * 2 ^ 16)

/-- UNIFORM_MODE as the bit CFG1 reports (R113). -/
def uniformModeBit : UniformMode → Bool
  | .mask14 => false
  | .mult5q => true

/-- CFG1 (R113). -/
def cfg1Word (p : Params) : Word32 :=
  bitAt 0 p.fwdPermute ||| bitAt 1 (uniformModeBit p.uniformMode) ||| bitAt 2 p.recInvert

/-- The value a host read of a register returns (R110 to R123). While BUSY = 1 the POLY window, KEYk and SRES return an
unspecified value (R206, U2): a free value of this step. -/
def State.readReg (s : State) (off : Offset) : Word32 :=
  match hostReg s.cfg.npoly off.toNat with
  | .id => idWord
  | .cfg0 => cfg0Word s.cfg
  | .cfg1 => cfg1Word s.cfg
  | .ctrl => bitAt 0 s.ie
  | .status => s.status.word
  | .cmd => 0
  | .sopa => s.sopa
  | .sres => if s.status.busy then Config.busyRead s.tick off.toNat else s.sres.setWidth 32
  | .seed k => s.seed[k]
  | .key k => if s.status.busy then Config.busyRead s.tick off.toNat else s.key[k]
  | .poly p w => if s.status.busy then Config.busyRead s.tick off.toNat else s.readPair p w
  | .reserved => 0

/-! ## Acceptance -/

/-- Accept(w), a CMD write while BUSY = 0 (R902): the word is refused with its one error, or it starts to run. -/
def State.accept (s : State) (w : Word32) : State :=
  match decode s.cfg.npoly w with
  | .error e => { s with status := s.status.cleared }.raise e
  | .ok _ => { s with status := s.status.started, eng := .run w 0 }

/-- A CMD write (R118). -/
def State.issue (s : State) (w : Word32) : State :=
  if s.status.busy then { s with status := s.status.overrun } else s.accept w

/-! ## Reset -/

/-- The buffer a command writes, if it writes one (R1101). -/
def destination : Instr → Option BufIdx
  | .nop => none
  | .smont => none
  | .sbarr => none
  | .ntt rd _ => some rd
  | .intt rd _ => some rd
  | .pmul rd _ _ => some rd
  | .padd rd _ _ => some rd
  | .canon rd _ => some rd
  | .uniform rd => some rd
  | .noise rd => some rd
  | .helprec rd _ => some rd
  | .reconcile _ _ => none

/-- How many RNG answers a command draws when none is FAIL (R702). -/
def drawCount : Instr → Nat
  | .nop => 0
  | .smont => 0
  | .sbarr => 0
  | .ntt _ _ => 0
  | .intt _ _ => 0
  | .pmul _ _ _ => 0
  | .padd _ _ _ => 0
  | .canon _ _ => 0
  | .uniform _ => 0
  | .noise _ => 4096
  | .helprec _ _ => 32
  | .reconcile _ _ => 0

/-- The command that runs, if one does. -/
def State.running (s : State) : Option Instr :=
  match s.eng with
  | .idle => none
  | .run w _ =>
    match decodeWord w with
    | .ok i => some i
    | .error _ => none

/-- The RNG port after a reset: a running command that is aborted has drawn an unspecified number of answers, from 0 to
its full count (R1101, U5), a free value of this step. -/
def State.rngAfterAbort (s : State) : Rng :=
  match s.running with
  | none => s.rng
  | some i => s.rng.skip (Config.abortedDraws s.tick % (drawCount i + 1))

/-- The buffer file after a soft reset: the destination of a command that was running becomes unspecified (R1101). -/
def State.memAfterAbort (s : State) : Memory :=
  match s.running with
  | none => s.mem
  | some i =>
    match destination i with
    | none => s.mem
    | some rd => (s.forgetPoly rd).mem

/-- SoftReset (R1101). -/
def State.softReset (s : State) : State :=
  { s with
    mem    := s.memAfterAbort
    rng    := s.rngAfterAbort
    eng    := .idle
    status := Status.zero
    ie     := false
    key    := #v[0, 0, 0, 0, 0, 0, 0, 0]
    sres   := 0 }

/-- HardReset (R1100): every field of NH-RA's at its reset value. The parameters are constants; the RNG port belongs to
its owner, but a command that was running may have drawn answers (U5). -/
def State.hardReset (s : State) : State :=
  { State.reset with
    cfg     := s.cfg
    rng     := s.rngAfterAbort
    pending := s.pending
    bus     := s.bus
    tick    := s.tick }

/-! ## Host accesses -/

/-- The one access shape NH-RA accepts (R201). -/
def Access.ok (a : Access) : Bool :=
  decide (a.bytes = 4) && decide (a.enables = 0b1111#4) && decide (a.offset.toNat % 4 = 0)

/-- An aligned 32-bit access (R201). -/
def aligned (off : Offset) : Access := ⟨off, 4, 0b1111⟩

/-- The effect of an accepted host write (R110 to R123, R206). -/
def State.writeReg (s : State) (off : Offset) (v : Word32) : State :=
  match hostReg s.cfg.npoly off.toNat with
  | .id => s
  | .cfg0 => s
  | .cfg1 => s
  | .ctrl => if v.getLsbD 1 then s.softReset else { s with ie := v.getLsbD 0 }
  | .status => s.acknowledge v
  | .cmd => s.issue v
  | .sopa => if s.status.busy then s else { s with sopa := v }
  | .sres => s
  | .seed k => if s.status.busy then s else { s with seed := s.seed.set k v }
  | .key _ => s
  | .poly p w => if s.status.busy then s else s.writePair p w v
  | .reserved => s

/-- HostRead (R201, R206): the value on the bus, no side effect; a bus error for any other shape. -/
def State.hostRead (s : State) (a : Access) : State :=
  if a.ok then { s with bus := .data (s.readReg a.offset) } else { s with bus := .busError }

/-- HostWrite (R201, R206); a bus error and no effect for any other shape. -/
def State.hostWrite (s : State) (a : Access) (v : Word32) : State :=
  if a.ok then { s.writeReg a.offset v with bus := .accepted } else { s with bus := .busError }

end Sys2Proof.Machine
end

