-- ==== Sys2Proof/Machine/PolyArith.lean ====
section
/-! DEFINITION. Coefficient-wise polynomial arithmetic: the lanes (spec/42_polyarith.md R600 to R603) and the meanings
of PMUL, PADD and CANON. -/
namespace Sys2Proof.Machine

/-- A lane of PMUL (R601). -/
def pmulLane (a b : Nat) : Nat := mr (a * mr (R2MODQ * b))

/-- A lane of PADD (R602). -/
def paddLane (a b : Nat) : Nat := br (trunc 16 (a + b))

/-- PMUL (R601). -/
def execPmul (rd rs1 rs2 : BufIdx) (s : State) : Host.Outcome State Fault Refusal :=
  .next (s.withFields [rd, rs1, rs2] fun s =>
    s.finishPoly rd (List.zipWith pmulLane (s.poly rs1) (s.poly rs2)))

/-- PADD (R602). -/
def execPadd (rd rs1 rs2 : BufIdx) (s : State) : Host.Outcome State Fault Refusal :=
  .next (s.withFields [rd, rs1, rs2] fun s =>
    s.finishPoly rd (List.zipWith paddLane (s.poly rs1) (s.poly rs2)))

/-- CANON (R603). -/
def execCanon (rd rs1 : BufIdx) (s : State) : Host.Outcome State Fault Refusal :=
  .next (s.withFields [rd, rs1] fun s =>
    s.finishPoly rd ((s.poly rs1).map canon16))

end Sys2Proof.Machine
end

