-- ==== Sys2Proof/Machine/Reconciliation.lean ====
section
/-! DEFINITION. Reconciliation: the decoders F, G and LDD (spec/44_reconciliation.md R802 to R804) and the meanings of
HELPREC and REC (R810, R811). -/
namespace Sys2Proof.Machine

/-- abs(x − y) of naturals (R12). -/
def absDiff (x y : Nat) : Nat := ((x : Int) - (y : Int)).natAbs

/-- v0 of F(x) (R802). -/
def fV0 (x : Nat) : Nat := (x / Q + 1) / 2

/-- v1 of F(x) (R802). -/
def fV1 (x : Nat) : Nat := x / Q / 2

/-- m of F(x) (R802). -/
def fM (x : Nat) : Nat := absDiff x (2 * Q * fV0 x)

/-- G(x) (R803). -/
def distG (x : Nat) : Nat := absDiff (8 * Q * ((x / (4 * Q) + 1) / 2)) x

/-- LDD(x0, x1, x2, x3) under the parameter REC_INVERT (R804). -/
def ldd (invert : Bool) (x0 x1 x2 x3 : Nat) : Bool :=
  decide (distG x0 + distG x1 + distG x2 + distG x3 < 8 * Q) ^^ invert

/-- The values at lanes 0 to 3 of one group (R800). -/
structure Lanes where
  l0 : Nat
  l1 : Nat
  l2 : Nat
  l3 : Nat
  deriving DecidableEq, Repr

/-- The 256 groups of a buffer: group i has the words at positions i, 256 + i, 512 + i and 768 + i (R800). -/
def groups (a : List Nat) : List Lanes :=
  List.zipWith (fun f p => f p.1 p.2)
    (List.zipWith Lanes.mk (a.take 256) ((a.drop 256).take 256))
    (((a.drop 512).take 256).zip ((a.drop 768).take 256))

/-- A buffer from its 256 groups (R800). -/
def ungroup (gs : List Lanes) : List Nat :=
  gs.map Lanes.l0 ++ gs.map Lanes.l1 ++ gs.map Lanes.l2 ++ gs.map Lanes.l3

/-- (x − y) & 3 of naturals (R12: over the integers). -/
def diffMod4 (x y : Nat) : Nat := (((x : Int) - (y : Int)).emod 4).toNat

/-- The scaled coordinate of a lane in HELPREC (R801, R810). -/
def helpX (v rbit : Nat) : Nat := 8 * v + 4 * rbit

/-- The sum k of the magnitudes of a group (R810). -/
def helpK (v : Lanes) (rbit : Nat) : Nat :=
  fM (helpX v.l0 rbit) + fM (helpX v.l1 rbit) + fM (helpX v.l2 rbit) + fM (helpX v.l3 rbit)

/-- sel of a group (R810). -/
def helpSel (v : Lanes) (rbit : Nat) : Nat := if 2 * Q ≤ helpK v rbit then 1 else 0

/-- vt of a lane (R810). -/
def helpVt (sel v rbit : Nat) : Nat := if sel = 1 then fV1 (helpX v rbit) else fV0 (helpX v rbit)

/-- The four helper words of a group (R810). -/
def helpGroup (v : Lanes) (rbit : Nat) : Lanes :=
  let sel := helpSel v rbit
  let vt3 := helpVt sel v.l3 rbit
  { l0 := diffMod4 (helpVt sel v.l0 rbit) vt3
    l1 := diffMod4 (helpVt sel v.l1 rbit) vt3
    l2 := diffMod4 (helpVt sel v.l2 rbit) vt3
    l3 := (sel + 2 * vt3) % 4 }

/-- Random bit i is bit (i mod 8) of byte (i div 8) (R810). -/
def randomBits (bs : List Byte) : List Nat :=
  bs.flatMap fun b => (List.range 8).map fun j => (b.toNat >>> j) % 2

/-- The helper HELPREC writes (R810), from the words of its source and its 32 random bytes. -/
def helprecWords (v : List Nat) (bs : List Byte) : List Nat :=
  ungroup (List.zipWith helpGroup (groups v) (randomBits bs))

/-- HELPREC (R810): 32 draws before any lane. A FAIL ends the command with ENTROPY_FAIL; the answers taken stay
taken. -/
def execHelprec (rd rs1 : BufIdx) (s : State) : Host.Outcome State Fault Refusal :=
  .next (s.withFields [rd, rs1] fun s =>
    match s.rng.draw 32 with
    | (none, r) => { s with rng := r }.raise .entropyFail
    | (some bs, r) => { s with rng := r }.finishPoly rd (helprecWords (s.poly rs1) bs))

/-- The key bit of a group (R811): only bits 1:0 of each helper word are used. -/
def recBit (invert : Bool) (v c : Lanes) : Bool :=
  let c3 := c.l3 % 4
  ldd invert
    (16 * Q + 8 * v.l0 - Q * (2 * (c.l0 % 4) + c3))
    (16 * Q + 8 * v.l1 - Q * (2 * (c.l1 % 4) + c3))
    (16 * Q + 8 * v.l2 - Q * (2 * (c.l2 % 4) + c3))
    (16 * Q + 8 * v.l3 - Q * c3)

/-- The 256 key bits REC computes (R811). -/
def recBits (invert : Bool) (v c : List Nat) : List Bool :=
  List.zipWith (recBit invert) (groups v) (groups c)

/-- REC (R811). -/
def execRec (rs1 rs2 : BufIdx) (s : State) : Host.Outcome State Fault Refusal :=
  .next (s.withFields [rs1, rs2] fun s =>
    s.finishKey (keyOfBits (recBits s.cfg.recInvert (s.poly rs1) (s.poly rs2))))

end Sys2Proof.Machine
end

