-- ==== Sys2Proof/Machine/Reduction.lean ====
section
/-! DEFINITION. The meanings of the scalar commands SMONT and SBARR (spec/40_reduction.md R410, R411). -/
namespace Sys2Proof.Machine

/-- SMONT (R410): SRES <- zext_32(MR(SOPA)). -/
def execSmont (s : State) : Host.Outcome State Fault Refusal :=
  .next (s.finishScalar (mr s.scalar32))

/-- SBARR (R411): SRES <- zext_32(BR(SOPA[15:0])). -/
def execSbarr (s : State) : Host.Outcome State Fault Refusal :=
  .next (s.finishScalar (br s.scalar16))

end Sys2Proof.Machine
end

