-- ==== Sys2Proof/Machine/Xof.lean ====
section
/-! DEFINITION. The XOF port (spec/43_sampling.md R700). The default XOF, SHAKE-128, is PRESUMED: the spec names it and
its 168-byte rate from general knowledge, and its definition is taken from FIPS 202 (notes/assumptions/3.md). -/
namespace Sys2Proof.Machine

/-- A lane of a Keccak state. -/
abbrev Lane := BitVec 64

/-- A plane of a Keccak state: its lanes for x = 0 to 4. A state is its planes for y = 0 to 4. -/
abbrev Plane := List Lane

/-- The lanes of a plane moved so that position x has what stood at x + k modulo 5, for k up to 5. -/
def Plane.shift (k : Nat) (p : Plane) : Plane := p.drop k ++ p.take k

/-- Lane by lane exclusive or. -/
def Plane.xor (p q : Plane) : Plane := List.zipWith (· ^^^ ·) p q

/-- The step theta: every column takes in the parities of the column before it and, rotated by 1, the one after it. -/
def theta (a : List Plane) : List Plane :=
  let parity := a.foldl Plane.xor (List.replicate 5 0)
  let effect := (parity.shift 4).xor ((parity.shift 1).map fun v => v.rotateLeft 1)
  a.map effect.xor

/-- The walk that numbers the lanes other than (0, 0) for rho: it starts at (1, 0) and goes from (x, y) to
(y, 2x + 3y); its t-th lane rotates by (t + 1)(t + 2)/2. `n` lanes of it from (x, y) on, each with its rotation. -/
def rhoWalk : Nat → Nat → Nat → Nat → List ((Nat × Nat) × Nat)
  | 0, _, _, _ => []
  | n + 1, t, x, y => ((x, y), (t + 1) * (t + 2) / 2 % 64) :: rhoWalk n (t + 1) y ((2 * x + 3 * y) % 5)

/-- The rotation of each lane in rho, plane by plane; lane (0, 0) is not on the walk and does not rotate. -/
def rhoOffsets : List (List Nat) :=
  (List.range 5).map fun y => (List.range 5).map fun x => ((rhoWalk 24 0 1 0).lookup (x, y)).getD 0

/-- The step rho: every lane rotated by its offset. -/
def rho (a : List Plane) : List Plane :=
  List.zipWith (List.zipWith fun (v : Lane) k => v.rotateLeft k) a rhoOffsets

/-- The step pi: lane (x, y) comes from lane (x + 3y, x). -/
def piStep (a : List Plane) : List Plane :=
  (List.range 5).map fun y => (List.range 5).map fun x => (a.getD x []).getD ((x + 3 * y) % 5) 0

/-- The step chi, which mixes the lanes of each plane. -/
def chi (a : List Plane) : List Plane :=
  a.map fun p => p.xor (List.zipWith (fun v w => ~~~ v &&& w) (p.shift 1) (p.shift 2))

/-- One step of the shift register with feedback polynomial x^8 + x^6 + x^5 + x^4 + 1 that the round constants come
from; its output is bit 0. -/
def lfsrStep (r : BitVec 8) : BitVec 8 := if r.msb then (r <<< 1) ^^^ 0x71 else r <<< 1

/-- Successive outputs of the register put at given bit positions of a lane, and the register after them. -/
def lfsrLane : List Nat → BitVec 8 → Lane × BitVec 8
  | [], r => (0, r)
  | k :: ks, r =>
    match lfsrLane ks (lfsrStep r) with
    | (v, r') => (if r.getLsbD 0 then v ||| BitVec.twoPow 64 k else v, r')

/-- The bit positions 2^j − 1 that a round constant can set. -/
def iotaPositions : List Nat := (List.range 7).map fun j => 2 ^ j - 1

/-- The step iota: the round constant goes into lane (0, 0). -/
def iota (c : Lane) : List Plane → List Plane
  | (v :: p) :: a => ((v ^^^ c) :: p) :: a
  | a => a

/-- n rounds, the register of the round constants going on from r. -/
def keccakRounds : Nat → BitVec 8 → List Plane → List Plane
  | 0, _, a => a
  | n + 1, r, a =>
    match lfsrLane iotaPositions r with
    | (c, r') => keccakRounds n r' (iota c (chi (piStep (rho (theta a)))))

/-- Keccak-f[1600]: 24 rounds, the register starting at 1. -/
def keccakF (a : List Plane) : List Plane := keccakRounds 24 1 a

/-- The bytes of a lane, the least significant first. -/
def laneBytes (v : Lane) : List Byte := (List.range 8).map fun k => v.extractLsb' (8 * k) 8

/-- The lane whose bytes start a list, the least significant first; absent bytes count as 0. -/
def laneOf : Nat → List Byte → Lane
  | 0, _ => 0
  | n + 1, bs => (bs.headD 0).setWidth 64 ||| (laneOf n bs.tail <<< 8)

/-- The Keccak state after SHAKE-128 has absorbed a seed of at most 166 bytes: the suffix 1F after the seed, the last bit
of the 168-byte block set, and the capacity 0. -/
def shakeAbsorb (seed : List Byte) : List Plane :=
  let block := seed ++ (0x1F :: List.replicate (166 - seed.length) 0) ++ [0x80]
  keccakF ((List.range 5).map fun y => (List.range 5).map fun x => laneOf 8 (block.drop (8 * (x + 5 * y))))

/-- n blocks squeezed from a Keccak state: the first 168 of its 200 bytes, then those of the state that follows it. -/
def shakeSqueeze : Nat → List Plane → List Byte
  | 0, _ => []
  | n + 1, a => (a.flatten.flatMap laneBytes).take 168 ++ shakeSqueeze n (keccakF a)

/-- The first n bytes of SHAKE-128 of a seed. -/
def shake128 (seed : List Byte) (n : Nat) : List Byte :=
  (shakeSqueeze (n / 168 + 1) (shakeAbsorb seed)).take n

/-- Byte k of a stream that is `head` and then `cycle` over and over; 0 where there is no byte to repeat. -/
def playbackByte (head cycle : List Byte) (k : Nat) : Byte :=
  if k < head.length then head.getD k 0 else cycle.getD ((k - head.length) % cycle.length) 0

/-- Bytes 0 to n−1 of the XOF stream for a seed (R700), with no byte skipped at a block boundary. -/
def xofBytes (x : XofSource) (seed : List Byte) (n : Nat) : List Byte :=
  match x with
  | .shake128 => shake128 seed n
  | .playback head cycle => (List.range n).map (playbackByte head cycle)
  | .blackBox => (List.range n).map (Config.xofByte seed)

end Sys2Proof.Machine
end

