-- ==== Sys2Proof/Machine/Sampling.lean ====
section
/-! DEFINITION. The samplers: the rejection sampler and the noise coefficient (spec/43_sampling.md R701, R710), and the
meanings of UNIFORM and NOISE (R701, R711). -/
namespace Sys2Proof.Machine

/-- The coefficient a 16-bit XOF word yields, or none where it is rejected (R701). -/
def acceptWord (mode : UniformMode) (w : Nat) : Option Nat :=
  match mode with
  | .mask14 => if w &&& 0x3FFF < Q then some (w &&& 0x3FFF) else none
  | .mult5q => if w < 5 * Q then some (w % Q) else none

/-- The first n coefficients a sequence of XOF words yields, or none where it does not hold n acceptable words. -/
def collect (mode : UniformMode) : Nat → List Nat → Option (List Nat)
  | 0, _ => some []
  | _ + 1, [] => none
  | n + 1, w :: ws =>
    match acceptWord mode w with
    | some v => (collect mode n ws).map (v :: ·)
    | none => collect mode (n + 1) ws

/-- How many more XOF words the engine examines in one turn of UNIFORM. The spec gives no pace (R1120); a UNIFORM that
lacks words in one turn goes on in the next (notes/assumptions/5.md). -/
def uniformTurn : Nat := 4096

/-- The 1024 coefficients UNIFORM samples (R701) from the first `words` words of the stream, little-endian, if they hold
1024 acceptable words. -/
def uniformWords (mode : UniformMode) (x : XofSource) (seed : List Byte) (words : Nat) : Option (List Nat) :=
  collect mode 1024 (wordsOfBytes (xofBytes x seed (2 * words)))

/-- UNIFORM (R701). While the words examined do not hold 1024 acceptable ones the engine stays RUN and BUSY stays 1
(R703, U3). -/
def execUniform (rd : BufIdx) (s : State) : Host.Outcome State Fault Refusal :=
  .next (s.withFields [rd] fun s =>
    match uniformWords s.cfg.uniformMode s.cfg.xof s.seedBytes (s.examined + uniformTurn) with
    | some ws => s.finishPoly rd ws
    | none => s.keepRunning (.uniform rd) (s.examined + uniformTurn))

/-- The number of bits of a byte that are 1. -/
def popcount (b : Byte) : Nat :=
  ((List.range 8).map fun j => (b.toNat >>> j) % 2).sum

/-- NOISEC(b0, b1, b2, b3) of R710: (a − b) mod Q, with a the population count of b0 and b1, b that of b2 and b3. -/
def noisec (b0 b1 b2 b3 : Byte) : Nat :=
  (((popcount b0 + popcount b1 : Nat) : Int) - ((popcount b2 + popcount b3 : Nat) : Int)).emod (Q : Int) |>.toNat

/-- One coefficient from every four bytes (R711). -/
def noiseWords : List Byte → List Nat
  | b0 :: b1 :: b2 :: b3 :: bs => noisec b0 b1 b2 b3 :: noiseWords bs
  | _ => []

/-- NOISE (R711): 4096 draws. A FAIL ends the command with ENTROPY_FAIL; the answers taken stay taken. -/
def execNoise (rd : BufIdx) (s : State) : Host.Outcome State Fault Refusal :=
  .next (s.withFields [rd] fun s =>
    match s.rng.draw 4096 with
    | (none, r) => { s with rng := r }.raise .entropyFail
    | (some bs, r) => { s with rng := r }.finishPoly rd (noiseWords bs))

end Sys2Proof.Machine
end

