-- ==== Sys2Proof/Machine/System.lean ====
section
/-! DEFINITION. The meaning of NOP (spec/49_system.md R910). -/
namespace Sys2Proof.Machine

/-- NOP (R910): no operation; DONE <- 1 at completion. -/
def execNop (s : State) : Host.Outcome State Fault Refusal :=
  .next s.finish

end Sys2Proof.Machine
end

