-- ==== Sys2Proof/Machine/Transform.lean ====
section
/-! DEFINITION. The transform engine: bit reversal, the table ROM and the butterfly network (spec/41_ntt.md R502 to
R505), and the meanings of NTT and INTT (R510, R511). -/
namespace Sys2Proof.Machine

/-- The number whose bit b is bit n−1−b of i, for i < 2^n: BITREV10 and BITREV9 for n = 10 and 9 (R503). -/
def bitrev : Nat → Nat → Nat
  | 0, _ => 0
  | n + 1, i => 2 * bitrev n (i % 2 ^ n) + i / 2 ^ n % 2

/-- The elements at even positions. -/
def evens {α : Type} : List α → List α
  | [] => []
  | [a] => [a]
  | a :: _ :: l => a :: evens l

/-- The elements at odd positions. -/
def odds {α : Type} : List α → List α
  | [] => []
  | [_] => []
  | _ :: b :: l => b :: odds l

/-- The list of 2^n elements whose element i is element `bitrev n i` of l: the first half of the positions, whose top
bit is 0, takes the even elements, the second half the odd ones. -/
def reorder {α : Type} : Nat → List α → List α
  | 0, l => l
  | n + 1, l => reorder n (evens l) ++ reorder n (odds l)

/-- PERMUTE(a) of R503: PERMUTE(a)[i] = a[BITREV10(i)] (Sys2Proof.Machine.permute_getElem?). -/
def permute (a : List Nat) : List Nat := reorder 10 a

/-! ## The table ROM -/

/-- T_PSI_BR (R502). -/
def tPsiBr : List Nat := (List.range 1024).map fun p => R * PSI ^ bitrev 10 p % Q

/-- T_OMEGA (R502). -/
def tOmega : List Nat := (List.range 512).map fun k => R * OMEGA ^ bitrev 9 k % Q

/-- T_OMEGA_INV (R502). -/
def tOmegaInv : List Nat := (List.range 512).map fun k => R * OMEGA_INV ^ bitrev 9 k % Q

/-- T_PSI_INV (R502). -/
def tPsiInv : List Nat := (List.range 1024).map fun m => R * NINV * PSI_INV ^ m % Q

/-- The numbers a table holds. -/
def tableWords {n : Nat} (t : Vector Word16 n) : List Nat := t.toList.map (·.toNat)

/-- The forward premultiply table under the parameter TABLES (R509). -/
def romPsiBr : TableRom → List Nat
  | .standard => tPsiBr
  | .custom t => tableWords t.psiBr

/-- The forward twiddles under the parameter TABLES (R509). -/
def romOmega : TableRom → List Nat
  | .standard => tOmega
  | .custom t => tableWords t.omega

/-- The inverse twiddles under the parameter TABLES (R509). -/
def romOmegaInv : TableRom → List Nat
  | .standard => tOmegaInv
  | .custom t => tableWords t.omegaInv

/-- The inverse postmultiply table under the parameter TABLES (R509). -/
def romPsiInv : TableRom → List Nat
  | .standard => tPsiInv
  | .custom t => tableWords t.psiInv

/-! ## The datapath -/

/-- MULC(a, T) of R504. -/
def mulc (a t : List Nat) : List Nat := List.zipWith (fun x y => mr (x * y)) a t

/-- What a butterfly of R505 writes to a[j], from the old a[j] and a[j+d]. -/
def butterflySum (odd : Bool) (x y : Nat) : Nat :=
  if odd then br (trunc 16 (x + y)) else trunc 16 (x + y)

/-- `diff` of R505, from the old a[j] and a[j+d]: x + 3Q − y modulo 2^32. A word is below 2^16, so that the number
subtracted from is not negative. -/
def butterflyDiff (x y : Nat) : Nat := trunc 32 (2 ^ 32 + (x + 3 * Q) - y)

/-- What a butterfly of R505 writes to a[j+d], with its twiddle w. -/
def butterflyTwiddle (w x y : Nat) : Nat := mr (trunc 32 (w * butterflyDiff x y))

/-- One level of NET at distance d (R505). The butterflies with twiddle index k are the pairs (j, j+d) with
2dk ≤ j < 2dk + d: they are the k-th block of 2d words, and the blocks are taken in order with the twiddles W[0], W[1],
and so on (Sys2Proof.Machine.netLevel_getElem?). -/
def netLevel (odd : Bool) (d : Nat) : List Nat → List Nat → List Nat
  | [], _ => []
  | w :: ws, a =>
    List.zipWith (butterflySum odd) (a.take d) ((a.drop d).take d)
      ++ List.zipWith (butterflyTwiddle w) (a.take d) ((a.drop d).take d)
      ++ netLevel odd d ws (a.drop (2 * d))

/-- The levels of NET from `lvl` on, `n` of them. -/
def netFrom (tw : List Nat) : Nat → Nat → List Nat → List Nat
  | 0, _, a => a
  | n + 1, lvl, a =>
    netFrom tw n (lvl + 1)
      (netLevel (lvl % 2 == 1) (2 ^ lvl) (tw.take (1024 / (2 * 2 ^ lvl))) a)

/-- NET(a, W) of R505: ten levels. -/
def net (a tw : List Nat) : List Nat := netFrom tw 10 0 a

/-- The words NTT writes (R510), from the words of its source. -/
def nttWords (permuteFirst : Bool) (rom : TableRom) (a : List Nat) : List Nat :=
  net (mulc (if permuteFirst then permute a else a) (romPsiBr rom)) (romOmega rom)

/-- The words INTT writes (R511), from the words of its source. -/
def inttWords (rom : TableRom) (a : List Nat) : List Nat :=
  (mulc (net (permute a) (romOmegaInv rom)) (romPsiInv rom)).map subQ

/-- NTT (R510). -/
def execNtt (rd rs1 : BufIdx) (s : State) : Host.Outcome State Fault Refusal :=
  .next (s.withFields [rd, rs1] fun s =>
    s.finishPoly rd (nttWords s.cfg.fwdPermute s.cfg.tables (s.poly rs1)))

/-- INTT (R511). -/
def execIntt (rd rs1 : BufIdx) (s : State) : Host.Outcome State Fault Refusal :=
  .next (s.withFields [rd, rs1] fun s =>
    s.finishPoly rd (inttWords s.cfg.tables (s.poly rs1)))

end Sys2Proof.Machine
end

