-- ==== Sys2Proof/Machine/Dispatch.lean ====
section
/-! DEFINITION. The meaning of every command: what Complete does when the command runs (spec/49_system.md R904). -/
namespace Sys2Proof.Machine

/-- Run command i to its completion at the state s (R904). -/
def exec (i : Instr) (s : State) : Host.Outcome State Fault Refusal :=
  match i with
  | .nop => Sys2Proof.Machine.execNop s
  | .smont => Sys2Proof.Machine.execSmont s
  | .sbarr => Sys2Proof.Machine.execSbarr s
  | .ntt rd rs1 => Sys2Proof.Machine.execNtt rd rs1 s
  | .intt rd rs1 => Sys2Proof.Machine.execIntt rd rs1 s
  | .pmul rd rs1 rs2 => Sys2Proof.Machine.execPmul rd rs1 rs2 s
  | .padd rd rs1 rs2 => Sys2Proof.Machine.execPadd rd rs1 rs2 s
  | .canon rd rs1 => Sys2Proof.Machine.execCanon rd rs1 s
  | .uniform rd => Sys2Proof.Machine.execUniform rd s
  | .noise rd => Sys2Proof.Machine.execNoise rd s
  | .helprec rd rs1 => Sys2Proof.Machine.execHelprec rd rs1 s
  | .reconcile rs1 rs2 => Sys2Proof.Machine.execRec rs1 rs2 s

end Sys2Proof.Machine
end

