-- ==== Sys2Proof/Machine/Sequencer.lean ====
section
/-! DEFINITION. The steps of spec/49_system.md R900, one at a time in the order the state holds them, and how the engine
runs the command it has latched (R904). -/
namespace Sys2Proof.Machine

/-- What every step does first: it takes the next pending event, counts itself and takes the last reply off the bus.
These are the model's own fields; NH-RA's state is untouched. -/
def State.begin (s : State) : State :=
  { s with pending := s.pending.tail, tick := s.tick + 1, bus := .quiet }

/-- The engine's turn. With ENG = RUN(w) it runs the command w is (R904); with ENG = IDLE Complete is not enabled and
nothing happens (R1025). No run reaches a RUN(w) whose w is no command (Sys2Proof.Machine.Inv); there the command ends
with the error of w (notes/assumptions/9.md). -/
def State.engineTurn (s : State) : Host.Outcome State Fault Refusal :=
  match s.eng with
  | .idle => .next s
  | .run w _ =>
    match decodeWord w with
    | .ok i => exec i s
    | .error e => .next (s.raise e)

/-- What comes after a poll of WAIT that read BUSY = 1: the next poll, the engine having its turn before it once
`latency` further polls have been made. -/
def pollAgain : Nat → List Event
  | 0 => [.complete, .wait 0]
  | n + 1 => [.wait n]

/-- One poll of WAIT (spec/30_encoding.md R306): `R 0x014`; where bit 0 reads 1 the host polls again, where it reads 0
WAIT is over. -/
def State.poll (latency : Nat) (s : State) : State :=
  if (s.readReg 0x014).getLsbD 0 then
    { s.hostRead (aligned 0x014) with pending := pollAgain latency ++ s.pending }
  else s.hostRead (aligned 0x014)

/-- One step of R900. -/
def State.take (e : Event) (s : State) : Host.Outcome State Fault Refusal :=
  match e with
  | .read a => .next (s.hostRead a)
  | .write a v => .next (s.hostWrite a v)
  | .complete => s.engineTurn
  | .wait latency => .next (s.poll latency)
  | .hardReset => .next s.hardReset

/-- The step whose turn it is: the first pending event, or the engine's turn where none is pending, so that a command
that can complete does (R905). -/
def State.nextEvent (s : State) : Event := s.pending.headD .complete

/-- The state in which the engine has accepted the word w and has the turn. -/
def State.latch (s : State) (w : Word32) : State :=
  { s with status := s.status.started, eng := .run w 0, pending := .complete :: s.pending }

end Sys2Proof.Machine
end

