-- ==== Sys2Proof/Machine/Step.lean ====
section
/-! DEFINITION. One step of the machine, and how an instruction is put where the machine runs it next. -/
namespace Sys2Proof.Machine

/-- One step of R900 (spec/49_system.md). -/
def step (s : State) : Host.Outcome State Fault Refusal :=
  s.begin.take s.nextEvent

/-- s with the command word w, the lowest `nbits` bits of it, latched in ENG as its acceptance latches it (R902) and the
engine's turn next, so that the next step runs that command. NH-RA fetches nothing (R104): a run from reset reaches this
state by a host write of w to CMD (notes/assumptions/1.md). -/
def State.withFetchWord (s : State) (nbits w : Nat) : State :=
  s.latch (BitVec.ofNat 32 (w % 2 ^ nbits))

end Sys2Proof.Machine
end

