-- ==== Sys2Proof/Machine/HostProgram.lean ====
section
/-! DEFINITION. What a host writes: the assembler syntax of a command (spec/30_encoding.md R305) and the pseudo-commands
of R306 as the steps they expand to. -/
namespace Sys2Proof.Machine

/-- A buffer operand, `p` and the index in decimal (R305). -/
def bufName (p : BufIdx) : String := "p" ++ toString p.toNat

/-- A command in assembler syntax (R305): the mnemonic, then the used fields in the order RD, RS1, RS2. -/
def asm : Instr → String
  | .nop => "NOP"
  | .smont => "SMONT"
  | .sbarr => "SBARR"
  | .ntt rd rs1 => "NTT " ++ bufName rd ++ ", " ++ bufName rs1
  | .intt rd rs1 => "INTT " ++ bufName rd ++ ", " ++ bufName rs1
  | .pmul rd rs1 rs2 => "PMUL " ++ bufName rd ++ ", " ++ bufName rs1 ++ ", " ++ bufName rs2
  | .padd rd rs1 rs2 => "PADD " ++ bufName rd ++ ", " ++ bufName rs1 ++ ", " ++ bufName rs2
  | .canon rd rs1 => "CANON " ++ bufName rd ++ ", " ++ bufName rs1
  | .uniform rd => "UNIFORM " ++ bufName rd
  | .noise rd => "NOISE " ++ bufName rd
  | .helprec rd rs1 => "HELPREC " ++ bufName rd ++ ", " ++ bufName rs1
  | .reconcile rs1 rs2 => "REC " ++ bufName rs1 ++ ", " ++ bufName rs2

/-- `W off, v` (R305). -/
def hostW (off : Offset) (v : Word32) : List Event := [.write (aligned off) v]

/-- `R off` (R305). -/
def hostR (off : Offset) : List Event := [.read (aligned off)]

/-- ISSUE (R306). -/
def issueCmd (i : Instr) : List Event := hostW 0x018 (encode i)

/-- WAIT (R306): `R 0x014` until bit 0 reads 0 (`State.poll`). `latency` is how many polls after the first read BUSY = 1
before the engine has the turn. -/
def wait (latency : Nat) : List Event := [.wait latency]

/-- CLRST (R306). -/
def clrst : List Event := hostW 0x014 0x0000000E

/-- A bare command of a program listing: ISSUE, then WAIT (R306). -/
def command (i : Instr) (latency : Nat) : List Event := issueCmd i ++ wait latency

end Sys2Proof.Machine
end

