-- ==== Sys2Proof/Safety.lean ====
section
/-! DEFINITION. The terms in which statements speak: the invariant of the machine, what a command may change, and the
mathematics the spec measures the transforms by (spec/41_ntt.md R501, R505, R514). -/
namespace Sys2Proof.Machine

/-! ## The invariant -/

/-- Every listed byte belongs to a buffer that exists (R101, R203). -/
def Memory.inFile (npoly : Nat) (m : Memory) : Bool :=
  m.all fun c => decide (0x1000 ≤ c.1) && decide (c.1 < 0x1000 + 0x800 * npoly)

/-- A buffer word holds a value wholly or not at all (R124: words, not bytes, hold values). -/
def Memory.paired (m : Memory) : Prop :=
  ∀ k, (m.read (2 * k)).isSome = (m.read (2 * k + 1)).isSome

/-- What holds of NH-RA at every instant. -/
structure Inv (s : State) : Prop where
  /-- The buffer file is in its canonical form. -/
  memWf : s.mem.wf = true
  /-- Only bytes of the buffers that exist hold values (R101). -/
  memInFile : s.mem.inFile s.cfg.npoly = true
  /-- Values are held word by word (R124). -/
  memPaired : s.mem.paired
  /-- STATUS.BUSY = 1 exactly when ENG = RUN(cmd) (R901). -/
  busyIff : s.status.busy = true ↔ s.eng ≠ .idle
  /-- ERRCODE is 0 exactly while ERR = 0 (R116). -/
  errIff : s.status.err = true ↔ s.status.errcode ≠ 0
  /-- Codes 5 to 15 are never produced (R1001). -/
  errcodeLe : s.status.errcode.toNat ≤ 4
  /-- Acceptance has cleared DONE and ERR (R902), and only completion sets them (R117). -/
  busyClear : s.status.busy = true → s.status.done = false ∧ s.status.err = false
  /-- A command that runs is a legal one (R902). -/
  runLegal : ∀ w n, s.eng = .run w n → ∃ i, decode s.cfg.npoly w = .ok i
  /-- Only UNIFORM keeps progress inside a command (R703). -/
  runProgress : ∀ w n, s.eng = .run w n → n = 0 ∨ ∃ rd, decodeWord w = .ok (.uniform rd)

/-! ## What a command changes -/

/-- An address outside buffer p (R203). -/
def outside (p : BufIdx) (a : Nat) : Prop := a < bufBase p.toNat ∨ bufBase p.toNat + 2048 ≤ a

/-- STATUS after a completion without error (R904). -/
def doneStatus (t : Status) : Status := { t with busy := false, done := true }

/-- STATUS after a command that ended with an error (R1000). -/
def errorStatus (t : Status) (code : BitVec 4) : Status :=
  { t with busy := false, done := true, err := true, errcode := code }

/-- t is s after a command that wrote buffer rd and ended without error, the RNG port now being r: outside rd every byte
reads as before, and every field but the buffer file, STATUS, ENG and the RNG port is as before. -/
structure WroteBuffer (rd : BufIdx) (r : Rng) (s t : State) : Prop where
  bytes : ∀ a, outside rd a → t.mem.read a = s.mem.read a
  rest  : t = { s with mem := t.mem, status := doneStatus s.status, eng := .idle, rng := r }

/-- Answer k from now on at the RNG port (R702). -/
def Rng.answer (r : Rng) (k : Nat) : Option Byte :=
  if k < r.answers.length then r.answers.getD k none else Config.rngAnswer (r.pos + k)

/-- Byte k of a list, 0 past its end. -/
def byteAt (bs : List Byte) (k : Nat) : Byte := bs.getD k 0

/-- Word k of a list, 0 past its end. -/
def wordAt (ws : List Nat) (k : Nat) : Nat := ws.getD k 0

/-- The group i of a buffer: the words at i, 256 + i, 512 + i and 768 + i (R800). -/
def groupAt (ws : List Nat) (i : Nat) : Lanes :=
  ⟨wordAt ws i, wordAt ws (256 + i), wordAt ws (512 + i), wordAt ws (768 + i)⟩

/-- The first n words of the XOF stream of the seed in SEED (R700, R701). -/
def State.xofWords (s : State) (n : Nat) : List Nat :=
  wordsOfBytes (xofBytes s.cfg.xof s.seedBytes (2 * n))

/-- The coefficients that the first n words of the XOF stream yield (R701). -/
def State.accepted (s : State) (n : Nat) : List Nat :=
  (s.xofWords n).filterMap (acceptWord s.cfg.uniformMode)

/-! ## The network as R505 writes it -/

/-- The body of R505's inner loop: one butterfly on the pair (j, j+d). -/
def butterflyAt (tw : List Nat) (odd : Bool) (d start k : Nat) (a : List Nat) : List Nat :=
  let j := start + 2 * d * k
  let t := wordAt a j
  let old := wordAt a (j + d)
  let sum := trunc 16 (t + old)
  let diff := (((t : Int) + 3 * (Q : Int) - (old : Int)).emod (2 ^ 32)).toNat
  (a.set j (if odd then br sum else sum)).set (j + d) (mr (trunc 32 (wordAt tw k * diff)))

/-- R505's loops over start and k at one level. -/
def levelLoop (tw : List Nat) (lvl : Nat) (a : List Nat) : List Nat :=
  let d := 2 ^ lvl
  (List.range d).foldl
    (fun a start => (List.range (1024 / (2 * d))).foldl
      (fun a k => butterflyAt tw (lvl % 2 == 1) d start k a) a) a

/-- R505's loop over the ten levels. -/
def netLoop (a tw : List Nat) : List Nat :=
  (List.range 10).foldl (fun a lvl => levelLoop tw lvl a) a

/-! ## The mathematics -/

/-- NTTm(c)[m] of R501. -/
def nttMath (c : List Nat) (m : Nat) : Nat :=
  ((List.range 1024).map fun j => wordAt c j * PSI ^ ((2 * m + 1) * j)).sum % Q

/-- INTTm(C)[j] of R501, with PSI^(-j) as PSI_INV^j and OMEGA^(-jm) as OMEGA_INV^(jm). -/
def inttMath (c : List Nat) (j : Nat) : Nat :=
  NINV * PSI_INV ^ j * ((List.range 1024).map fun m => wordAt c m * OMEGA_INV ^ (j * m)).sum % Q

/-- Coefficient k of the product of a and b in Z_Q[x]/(x^1024 + 1) (R6, R514). -/
def ringMul (a b : List Nat) (k : Nat) : Nat :=
  (((List.range 1024).map fun i =>
      if i ≤ k then (wordAt a i : Int) * (wordAt b (k - i) : Int)
      else - ((wordAt a i : Int) * (wordAt b (1024 + k - i) : Int))).sum.emod (Q : Int)).toNat

/-- The words of a buffer: 1024 of them, each below 2^16 (R7, R101). -/
def isBuffer (a : List Nat) : Prop := a.length = 1024 ∧ ∀ x ∈ a, x < 2 ^ 16

/-- Every entry of the four tables is below Q (R502, R509). -/
structure TablesBelowQ (rom : TableRom) : Prop where
  psiBr    : ∀ x ∈ romPsiBr rom, x < Q
  omega    : ∀ x ∈ romOmega rom, x < Q
  omegaInv : ∀ x ∈ romOmegaInv rom, x < Q
  psiInv   : ∀ x ∈ romPsiInv rom, x < Q

/-- The parameter values that are legal (R9): NPOLY is 1 to 16, and the tables meet R509, whose conditions are entries
below Q, the inverse law of R513 and the ring identity of R514. -/
structure Params.Legal (c : Params) : Prop where
  npolyPos : 1 ≤ c.npoly
  npolyLe  : c.npoly ≤ 16
  belowQ   : TablesBelowQ c.tables
  inverse  : ∀ a, isBuffer a → inttWords c.tables (nttWords true c.tables a) = a.map (· % Q)
  ring     : ∀ a b, isBuffer a → isBuffer b → ∀ k < 1024,
    wordAt (inttWords c.tables
      (List.zipWith pmulLane (nttWords true c.tables a) (nttWords true c.tables b))) k = ringMul a b k

/-! ## What a host sees -/

/-- A host read at an aligned offset, as the next step, puts v on the bus and changes nothing of NH-RA's (R206). -/
def ReadsAs (s : State) (off : Offset) (v : Word32) : Prop :=
  ∀ rest, step { s with pending := .read (aligned off) :: rest }
    = .next { s with pending := rest, tick := s.tick + 1, bus := .data v }

/-- A host write of v at an aligned offset, as the next step, leaves NH-RA as it is in t. -/
def WritesTo (s : State) (off : Offset) (v : Word32) (t : State) : Prop :=
  ∀ rest, step { s with pending := .write (aligned off) v :: rest }
    = .next { t with pending := rest, tick := s.tick + 1, bus := .accepted }

/-- KEY0..7 all 0. -/
def zeroKey : Vector Word32 8 := #v[0, 0, 0, 0, 0, 0, 0, 0]

end Sys2Proof.Machine
end

