-- ==== Sys2Proof/Certificates/Slice0/Obligations.lean ====
section
/-! DEFINITION. The statements for the provers. Each cites the rules of spec/ it says. -/
open Sys2Proof Sys2Proof.Machine

/-! ## Encoding -/

/-- Decoding an encoded command gives the command back (R303, R305); with NPOLY buffers, a well-formed one. -/
def Obligations.DecodeOfEncode : Prop :=
  ∀ i : Instr, decodeWord (encode i) = .ok i ∧
    ∀ npoly, i.wf npoly = true → decode npoly (encode i) = .ok i

/-- A word that decodes is the one encoding of its command (R303). -/
def Obligations.EncodeOfDecode : Prop :=
  ∀ (w : Word32) (i : Instr), decodeWord w = .ok i → encode i = w

/-- R303: the rows of the opcode map; a word is a row's command exactly when it matches the row; at most one row matches
any word. -/
def Obligations.OpcodeMapDecidesEveryWord : Prop :=
  (opcodeTable.map fun r => (r.pattern, r.mask, r.build 1 2 3)) =
    [ (0x00000000, 0xFFFFFFFF, .nop), (0x01000000, 0xFFFFFFFF, .smont), (0x02000000, 0xFFFFFFFF, .sbarr),
      (0x10000000, 0xFF00FFFF, .ntt 1 2), (0x11000000, 0xFF00FFFF, .intt 1 2),
      (0x20000000, 0xFF000FFF, .pmul 1 2 3), (0x21000000, 0xFF000FFF, .padd 1 2 3),
      (0x22000000, 0xFF00FFFF, .canon 1 2), (0x30000000, 0xFF0FFFFF, .uniform 1),
      (0x31000000, 0xFF0FFFFF, .noise 1), (0x40000000, 0xFF00FFFF, .helprec 1 2),
      (0x41000000, 0xFFF00FFF, .reconcile 2 3) ] ∧
  (∀ r ∈ opcodeTable, ∀ w : Word32, w &&& r.mask = r.pattern ↔
    decodeWord w = .ok (r.build (fieldRd w) (fieldRs1 w) (fieldRs2 w))) ∧
  (∀ r ∈ opcodeTable, ∀ r' ∈ opcodeTable, ∀ w : Word32, w &&& r.mask = r.pattern → w &&& r'.mask = r'.pattern →
    r = r')

/-- R1002: the single code that applies to a word, in the order ILLEGAL_OPCODE, RESFIELD, BAD_INDEX; ENTROPY_FAIL comes
only from a command whose word decodes. -/
def Obligations.DecodeReportsTheOneError : Prop :=
  (CmdError.illegalOpcode.code = 1 ∧ CmdError.resfield.code = 2 ∧ CmdError.badIndex.code = 3) ∧
  (∀ (npoly : Nat) (w : Word32),
    (fieldOpc w ∉ [0x00, 0x01, 0x02, 0x10, 0x11, 0x20, 0x21, 0x22, 0x30, 0x31, 0x40, 0x41] →
      decode npoly w = .error .illegalOpcode) ∧
    (∀ r ∈ opcodeTable, fieldOpc w = fieldOpc r.pattern → w &&& r.mask ≠ r.pattern →
      decode npoly w = .error .resfield) ∧
    (∀ r ∈ opcodeTable, w &&& r.mask = r.pattern →
      (∃ f ∈ (r.build (fieldRd w) (fieldRs1 w) (fieldRs2 w)).usedFields, npoly ≤ f.toNat) →
      decode npoly w = .error .badIndex) ∧
    (∀ r ∈ opcodeTable, w &&& r.mask = r.pattern →
      (∀ f ∈ (r.build (fieldRd w) (fieldRs1 w) (fieldRs2 w)).usedFields, f.toNat < npoly) →
      decode npoly w = .ok (r.build (fieldRd w) (fieldRs1 w) (fieldRs2 w)))) ∧
  ∀ (i : Instr) (s t : State), exec i s = .next t → s.status.errcode ≠ 4 → t.status.errcode = 4 →
    decode s.cfg.npoly (encode i) = .ok i

/-- R307: the worked encodings, with NPOLY = 8. -/
def Obligations.WorkedEncodings : Prop :=
  encode (.ntt 1 0) = 0x10100000 ∧ encode (.pmul 2 0 1) = 0x20201000 ∧
  encode (.reconcile 3 4) = 0x41034000 ∧ encode (.uniform 7) = 0x30700000 ∧
  decode 8 0x10100000 = .ok (.ntt 1 0) ∧ decode 8 0x20201000 = .ok (.pmul 2 0 1) ∧
  decode 8 0x41034000 = .ok (.reconcile 3 4) ∧ decode 8 0x30700000 = .ok (.uniform 7) ∧
  decode 8 0x10100001 = .error .resfield ∧ decode 8 0x10900000 = .error .badIndex ∧
  decode 8 0x03000000 = .error .illegalOpcode

/-! ## The step, and commands as they run -/

/-- The engine's turn runs the command latched in ENG (R904): the step is `exec` of it, on the state whose pending
events, step number and bus reply `State.begin` has moved on. That the engine has the turn when no event is pending is
the model's choice (notes/assumptions/2.md). The word that `withFetchWord` places is latched so: the model's choice of
how a command is placed, NH-RA fetching none (notes/assumptions/1.md). -/
def Obligations.StepRunsLatchedCommand : Prop :=
  (∀ (s : State) (w : Word32) (n : Nat) (i : Instr), s.eng = .run w n → decodeWord w = .ok i →
    (s.pending = [] ∨ ∃ rest, s.pending = .complete :: rest) → step s = exec i s.begin) ∧
  (∀ (s : State) (w : Nat) (i : Instr), w < 2 ^ 32 → decodeTableWord 32 w = some i →
    step (s.withFetchWord 32 w) = exec i (s.withFetchWord 32 w).begin)

/-- Every step answers a next state: NH-RA takes no traps (R1008), and all arithmetic is total (R1004). That an access
which R201 refuses is a next state, with a bus error as its reply, is read from R201 (notes/assumptions/11.md, DEDUCED);
that a latched word which is no legal command ends with its error is the model's choice (notes/assumptions/9.md, DESIGN
CHOICE). -/
def Obligations.EveryStepAnswersNext : Prop :=
  ∀ s : State, ∃ t, step s = .next t

/-- Every step keeps the invariant: the buffer file's canonical form, BUSY with ENG (R901), ERR with ERRCODE (R116),
the codes (R1001), DONE and ERR clear while BUSY (R902), and only legal commands running. -/
def Obligations.StepKeepsInvariant : Prop :=
  ∀ s t : State, Inv s → step s = .next t → Inv t

/-- The invariant holds after reset. -/
def Obligations.ResetMeetsInvariant : Prop := Inv State.reset

/-- What a host reads after a hardware reset, with the default parameters (R134; V-RST), the two streams' positions and
the pending events being the model's own (notes/assumptions/2.md and 4.md). -/
def Obligations.ResetReads : Prop :=
  ReadsAs State.reset 0x000 0x4E480001 ∧ ReadsAs State.reset 0x004 0x30010A08 ∧
  ReadsAs State.reset 0x008 0x00000001 ∧ ReadsAs State.reset 0x010 0 ∧ ReadsAs State.reset 0x014 0 ∧
  ReadsAs State.reset 0x01C 0 ∧ ReadsAs State.reset 0x020 0 ∧
  (∀ k : Fin 8, ReadsAs State.reset (BitVec.ofNat 16 (0x040 + 4 * k.val)) 0) ∧
  (∀ k : Fin 8, ReadsAs State.reset (BitVec.ofNat 16 (0x060 + 4 * k.val)) 0) ∧
  (∀ a, State.reset.mem.read a = none) ∧ State.reset.eng = .idle ∧ State.reset.irq = false

/-- No step changes the parameters or the tables (R508, R111 to R113: hardwired). -/
def Obligations.ParametersAreConstant : Prop :=
  ∀ s t : State, step s = .next t → t.cfg = s.cfg

/-- An idle block with no access pending holds all its state, however many steps pass (R1025); the step number and the
bus reply are the model's own. -/
def Obligations.IdleBlockHolds : Prop :=
  ∀ (s : State) (n : Nat), s.eng = .idle → s.pending = [] → s.bus = .quiet →
    Host.Core.run Sys2Proof.core n s = .next { s with tick := s.tick + n }

/-- A running command other than UNIFORM completes in the engine's next turn (R904, R905; one turn is the model's
choice, notes/assumptions/2.md). So WAIT (R306), which reads STATUS until bit 0 reads 0, comes to an end on such a
command: after latency + 1 polls that read 1, the engine's turn, and a poll that reads 0. Where BUSY = 0 its one poll
ends it. The number of polls before the engine's turn is any number (notes/assumptions/2.md). -/
def Obligations.RunningCommandCompletes : Prop :=
  (∀ (s : State) (w : Word32) (n : Nat) (i : Instr), s.eng = .run w n → decodeWord w = .ok i →
    (∀ rd, i ≠ .uniform rd) →
    (s.pending = [] →
      ∃ t, step s = .next t ∧ t.eng = .idle ∧ t.status.busy = false ∧ t.status.done = true ∧
        t.status.cmdovf = s.status.cmdovf) ∧
    (s.status.busy = true → ∀ (latency : Nat) (rest : List Event), ∃ t,
      Host.Core.run Sys2Proof.core (latency + 3) { s with pending := wait latency ++ rest } = .next t ∧
      t.pending = rest ∧ t.bus = .data t.status.word ∧ t.eng = .idle ∧ t.status.busy = false ∧
      t.status.done = true)) ∧
  (∀ (s : State) (latency : Nat) (rest : List Event), s.status.busy = false →
    step { s with pending := wait latency ++ rest }
      = .next { s with pending := rest, tick := s.tick + 1, bus := .data s.status.word })

/-- What no command changes, and which commands alone change KEY, SRES and the RNG port (R117, R120, R121, R123, R131). -/
def Obligations.CommandFootprint : Prop :=
  ∀ (i : Instr) (s t : State), exec i s = .next t →
    t.seed = s.seed ∧ t.sopa = s.sopa ∧ t.ie = s.ie ∧ t.cfg = s.cfg ∧ t.status.cmdovf = s.status.cmdovf ∧
    t.pending = s.pending ∧ t.bus = s.bus ∧ t.tick = s.tick ∧
    (t.key ≠ s.key → ∃ rs1 rs2, i = .reconcile rs1 rs2) ∧
    (t.sres ≠ s.sres → i = .smont ∨ i = .sbarr) ∧
    (t.rng ≠ s.rng → (∃ rd, i = .noise rd) ∨ ∃ rd rs1, i = .helprec rd rs1) ∧
    (∀ a, t.mem.read a ≠ s.mem.read a → ∃ rd, destination i = some rd ∧ ¬ outside rd a)

/-- A command that reports an error has changed only STATUS and ENG, and the RNG port if the error is ENTROPY_FAIL
(R1000, R1008: error reporting is precise). -/
def Obligations.ErrorsChangeOnlyStatus : Prop :=
  ∀ (i : Instr) (s t : State), exec i s = .next t → s.status.err = false → t.status.err = true →
    t = { s with status := errorStatus s.status t.status.errcode, eng := .idle, rng := t.rng } ∧
    (t.status.errcode = 3 ∧ t.rng = s.rng ∨ t.status.errcode = 4)

/-- A command with a used field of NPOLY or more ends with BAD_INDEX and changes only STATUS and ENG (R1000, R1001).
Acceptance refuses such a word, so that no run reaches this: the model's choice (notes/assumptions/9.md). -/
def Obligations.BadFieldEndsWithBadIndex : Prop :=
  ∀ (i : Instr) (s : State), i.wf s.cfg.npoly = false →
    exec i s = .next { s with status := errorStatus s.status 3, eng := .idle }

/-! ## STATUS, IRQ and the registers -/

/-- A CMD write (R118, R902): with BUSY = 1 it only sets CMDOVF; with BUSY = 0 the word is refused with its one error,
or starts to run. CMD reads 0. -/
def Obligations.CmdWriteIssuesOrOverruns : Prop :=
  ∀ (s : State) (w : Word32),
    (s.status.busy = true → WritesTo s 0x018 w { s with status := { s.status with cmdovf := true } }) ∧
    (∀ e, s.status.busy = false → decode s.cfg.npoly w = .error e →
      WritesTo s 0x018 w { s with status := ⟨false, true, true, s.status.cmdovf, e.code⟩, eng := .idle }) ∧
    (∀ i, s.status.busy = false → decode s.cfg.npoly w = .ok i →
      WritesTo s 0x018 w { s with status := ⟨true, false, false, s.status.cmdovf, 0⟩, eng := .run w 0 }) ∧
    ReadsAs s 0x018 0

/-- STATUS (R116): the bits a read returns, and write 1 to clear. -/
def Obligations.StatusReadAndClear : Prop :=
  ∀ (s : State) (v : Word32),
    (∃ w : Word32, ReadsAs s 0x014 w ∧ w.getLsbD 0 = s.status.busy ∧ w.getLsbD 1 = s.status.done ∧
      w.getLsbD 2 = s.status.err ∧ w.getLsbD 3 = s.status.cmdovf ∧ w.extractLsb' 4 4 = s.status.errcode ∧
      w.extractLsb' 8 24 = 0) ∧
    WritesTo s 0x014 v { s with status :=
      { busy := s.status.busy
        done := if v.getLsbD 1 then false else s.status.done
        err := if v.getLsbD 2 then false else s.status.err
        cmdovf := if v.getLsbD 3 then false else s.status.cmdovf
        errcode := if v.getLsbD 2 then 0 else s.status.errcode } }

/-- Only the events of R117 write STATUS. -/
def Obligations.OnlyListedEventsWriteStatus : Prop :=
  ∀ s t : State, step s = .next t → t.status ≠ s.status →
    (s.nextEvent = .complete ∧ s.eng ≠ .idle) ∨ s.nextEvent = .hardReset ∨
    (∃ v, s.nextEvent = .write (aligned 0x018) v) ∨ (∃ v, s.nextEvent = .write (aligned 0x014) v) ∨
    (∃ v, s.nextEvent = .write (aligned 0x010) v ∧ v.getLsbD 1 = true)

/-- R119: the IRQ level; 0 after reset; it falls when the host clears DONE and ERR, or clears IE. -/
def Obligations.IrqLevel : Prop :=
  (∀ s : State, s.irq = true ↔ s.ie = true ∧ (s.status.done = true ∨ s.status.err = true)) ∧
  State.reset.irq = false ∧
  (∀ s : State, ∃ t : State, WritesTo s 0x014 0x00000006 t ∧ t.irq = false) ∧
  (∀ s : State, ∃ t : State, WritesTo s 0x010 0x00000000 t ∧ t.irq = false)

/-- IRQ follows a report in the step that makes it (R904, R1006): a command that ends leaves IRQ equal to IE, a refused
word does so in its own acceptance, an accepted one leaves IRQ 0, and CMDOVF does not raise it. -/
def Obligations.IrqFollowsReports : Prop :=
  (∀ (i : Instr) (s t : State), exec i s = .next t → t.eng = .idle → t.irq = s.ie) ∧
  (∀ (s : State) (w : Word32), ∃ t, WritesTo s 0x018 w t ∧
    (s.status.busy = true → t.irq = s.irq) ∧
    (s.status.busy = false → ∀ e, decode s.cfg.npoly w = .error e → t.irq = s.ie) ∧
    (s.status.busy = false → ∀ i, decode s.cfg.npoly w = .ok i → t.irq = false))

/-- R111 to R113: ID, CFG0 and CFG1 report the constants and the parameters, and ignore writes. -/
def Obligations.ConfigurationRegisters : Prop :=
  ∀ (s : State) (v : Word32), 1 ≤ s.cfg.npoly → s.cfg.npoly ≤ 16 →
    (ReadsAs s 0x000 0x4E480001 ∧ WritesTo s 0x000 v s) ∧
    (∃ w : Word32, ReadsAs s 0x004 w ∧ (w.extractLsb' 0 8).toNat = s.cfg.npoly ∧ w.extractLsb' 8 8 = 10 ∧
      w.extractLsb' 16 14 = 0x3001 ∧ w.extractLsb' 30 2 = 0) ∧ WritesTo s 0x004 v s ∧
    (∃ w : Word32, ReadsAs s 0x008 w ∧ w.getLsbD 0 = s.cfg.fwdPermute ∧
      (w.getLsbD 1 = true ↔ s.cfg.uniformMode = .mult5q) ∧ w.getLsbD 2 = s.cfg.recInvert ∧
      w.extractLsb' 3 29 = 0) ∧ WritesTo s 0x008 v s ∧
    (s.cfg = Params.standard → ReadsAs s 0x004 0x30010A08 ∧ ReadsAs s 0x008 0x00000001)

/-- R120: SEED0..7. -/
def Obligations.SeedRegisters : Prop :=
  (∀ (s : State) (k : Fin 8) (v : Word32),
    ReadsAs s (BitVec.ofNat 16 (0x040 + 4 * k.val)) s.seed[k] ∧
    (s.status.busy = false →
      WritesTo s (BitVec.ofNat 16 (0x040 + 4 * k.val)) v { s with seed := s.seed.set k v }) ∧
    (s.status.busy = true → WritesTo s (BitVec.ofNat 16 (0x040 + 4 * k.val)) v s)) ∧
  (∀ (s : State) (j : Fin 32), byteAt s.seedBytes j.val = (s.seed[j.val / 4]).extractLsb' (8 * (j.val % 4)) 8) ∧
  State.reset.seed = zeroKey ∧
  (∀ (i : Instr) (s t : State), exec i s = .next t → t.seed = s.seed)

/-- SOPA, SRES, KEY and CTRL.IE as the host reads and writes them (R115, R121 to R123, R206). While BUSY = 1 the reads of
SRES and KEY are unspecified and not spoken of. -/
def Obligations.ScalarKeyAndControlRegisters : Prop :=
  ∀ (s : State) (k : Fin 8) (v : Word32),
    ReadsAs s 0x01C s.sopa ∧
    (s.status.busy = false → WritesTo s 0x01C v { s with sopa := v }) ∧
    (s.status.busy = true → WritesTo s 0x01C v s) ∧
    (s.status.busy = false → ReadsAs s 0x020 (s.sres.setWidth 32)) ∧ WritesTo s 0x020 v s ∧
    (s.status.busy = false → ReadsAs s (BitVec.ofNat 16 (0x060 + 4 * k.val)) s.key[k]) ∧
    WritesTo s (BitVec.ofNat 16 (0x060 + 4 * k.val)) v s ∧
    ReadsAs s 0x010 (if s.ie then 1 else 0) ∧
    (v.getLsbD 1 = false → WritesTo s 0x010 v { s with ie := v.getLsbD 0 })

/-- R114: reserved offsets read 0 and ignore writes. That the reserved part of the POLY range reads 0 also while BUSY = 1
is the model's reading of R114 beside R206 (notes/assumptions/15.md). -/
def Obligations.ReservedOffsets : Prop :=
  ∀ (s : State) (off : Offset) (v : Word32), s.cfg.npoly ≤ 16 → off.toNat % 4 = 0 →
    (off = 0x00C ∨ (0x024 ≤ off.toNat ∧ off.toNat < 0x040) ∨ (0x080 ≤ off.toNat ∧ off.toNat < 0x1000) ∨
      0x1000 + 0x800 * s.cfg.npoly ≤ off.toNat) →
    ReadsAs s off 0 ∧ WritesTo s off v s

/-- R201: an access of any other shape gets a bus error and changes no state; an aligned 32-bit one is accepted, and a
read changes nothing (R206). -/
def Obligations.BusAccessShapes : Prop :=
  ∀ (s : State) (a : Access) (v : Word32) (rest : List Event),
    (¬ (a.bytes = 4 ∧ a.enables = 0b1111 ∧ a.offset.toNat % 4 = 0) →
      step { s with pending := .read a :: rest }
        = .next { s with pending := rest, tick := s.tick + 1, bus := .busError } ∧
      step { s with pending := .write a v :: rest }
        = .next { s with pending := rest, tick := s.tick + 1, bus := .busError }) ∧
    (a.bytes = 4 ∧ a.enables = 0b1111 ∧ a.offset.toNat % 4 = 0 →
      (∃ d, step { s with pending := .read a :: rest }
        = .next { s with pending := rest, tick := s.tick + 1, bus := .data d }) ∧
      (∃ t, step { s with pending := .write a v :: rest } = .next t ∧ t.bus = .accepted))

/-- R203: the POLY window, one pair of words at a time; while BUSY = 1 a write is ignored (R206). A word that holds no
value reads as the free value of the step that reads it (notes/assumptions/6.md), which is why the read speaks of the
step's own number. -/
def Obligations.PolyWindow : Prop :=
  ∀ (s : State) (p : BufIdx) (w : Nat) (v : Word32), s.mem.wf = true → p.toNat < s.cfg.npoly → w < 512 →
    (s.status.busy = false →
      ReadsAs s (BitVec.ofNat 16 (0x1000 + 0x800 * p.toNat + 4 * w))
        (BitVec.ofNat 32 (wordAt ({ s with tick := s.tick + 1 }.poly p) (2 * w)
          + 2 ^ 16 * wordAt ({ s with tick := s.tick + 1 }.poly p) (2 * w + 1))) ∧
      ∃ m, WritesTo s (BitVec.ofNat 16 (0x1000 + 0x800 * p.toNat + 4 * w)) v { s with mem := m } ∧
        wordAt ({ s with mem := m }.poly p) (2 * w) = (v.extractLsb' 0 16).toNat ∧
        wordAt ({ s with mem := m }.poly p) (2 * w + 1) = (v.extractLsb' 16 16).toNat ∧
        ∀ a, a < 0x1000 + 0x800 * p.toNat + 4 * w ∨ 0x1000 + 0x800 * p.toNat + 4 * w + 4 ≤ a →
          m.read a = s.mem.read a) ∧
    (s.status.busy = true → WritesTo s (BitVec.ofNat 16 (0x1000 + 0x800 * p.toNat + 4 * w)) v s)

/-! ## Reset -/

/-- R1100: HardReset. The RNG port belongs to its owner; a command that was running has drawn at most its full count of
answers (U5; notes/assumptions/8.md). -/
def Obligations.HardResetState : Prop :=
  ∀ (s : State) (rest : List Event), ∃ (r : Rng) (j : Nat) (t : State),
    step { s with pending := .hardReset :: rest } = .next t ∧
    t = { mem := [], seed := zeroKey, key := zeroKey, sopa := 0, sres := 0, ie := false,
          status := ⟨false, false, false, false, 0⟩, eng := .idle, cfg := s.cfg, rng := r, pending := rest,
          bus := .quiet, tick := s.tick + 1 } ∧
    t.irq = false ∧ (∀ a, t.mem.read a = none) ∧
    r = s.rng.skip j ∧ (s.eng = .idle → j = 0) ∧
    (∀ w n i, s.eng = .run w n → decodeWord w = .ok i → j ≤ drawCount i)

/-- R1101: SoftReset, by a CTRL write with SRST = 1, whatever BUSY and v[0] are. -/
def Obligations.SoftResetState : Prop :=
  (∀ rd a b, [Instr.ntt rd a, .intt rd a, .pmul rd a b, .padd rd a b, .canon rd a, .uniform rd, .noise rd,
      .helprec rd a].map destination = List.replicate 8 (some rd)) ∧
  (∀ a b, [Instr.nop, .smont, .sbarr, .reconcile a b].map destination = List.replicate 4 none) ∧
  ∀ (s : State) (v : Word32), v.getLsbD 1 = true → ∃ (m : Memory) (r : Rng) (j : Nat),
    WritesTo s 0x010 v { s with mem := m, rng := r, eng := .idle, status := ⟨false, false, false, false, 0⟩,
                                ie := false, key := zeroKey, sres := 0 } ∧
    r = s.rng.skip j ∧
    (s.eng = .idle → m = s.mem ∧ j = 0) ∧
    (∀ w n i, s.eng = .run w n → decodeWord w = .ok i →
      j ≤ drawCount i ∧
      (destination i = none → m = s.mem) ∧
      (∀ rd, destination i = some rd →
        (∀ a, outside rd a → m.read a = s.mem.read a) ∧ (∀ a, ¬ outside rd a → m.read a = none)))

/-! ## Reductions -/

/-- R404: the properties of MR. -/
def Obligations.MontgomeryReduction : Prop :=
  (∀ a < 2 ^ 32, mr a * R % Q = a % Q ∧ mr a ≤ a / 2 ^ 18 + Q ∧ mr a ≤ 28672 ∧
    (a < 2 ^ 18 * Q → mr a < 2 * Q)) ∧
  [0, 1, 3, 4075, 262144, 12289, 151019521, 1073491968, 1073491969, 2147483648, 4294967295].map mr
    = [0, 576, 1728, 1, 1, 12289, 12289, 15808, 16384, 8192, 28097] ∧
  (∀ a ≤ 1073491968, trunc 32 (a + trunc 18 (a * QINV) * Q) / 2 ^ 18 = mr a) ∧
  trunc 32 (1073491969 + trunc 18 (1073491969 * QINV) * Q) / 2 ^ 18 = 0

/-- R406 and R407: the properties of BR; CANON16(a) is the unique value in [0, Q) congruent to a. -/
def Obligations.BarrettAndFullReduction : Prop :=
  (∀ a < 2 ^ 16, br a % Q = a % Q ∧ br a ≤ 16379 ∧ (a ≤ 13107 → br a = a) ∧ (a < Q → br a < Q)) ∧
  br 13107 = 13107 ∧ br 65535 = 16379 ∧
  (∀ a < 2 ^ 16, canon16 a = a % Q)

/-- R410: SMONT. -/
def Obligations.SmontResult : Prop :=
  (∀ s : State, ∃ t, exec .smont s = .next t ∧
    t = { s with sres := t.sres, status := doneStatus s.status, eng := .idle } ∧
    t.sres.toNat = (s.sopa.toNat + s.sopa.toNat * 12287 % 2 ^ 18 * 12289) / 2 ^ 18 ∧
    t.sres.toNat * 2 ^ 18 % 12289 = s.sopa.toNat % 12289 ∧ t.sres.toNat ≤ 28672 ∧
    (s.sopa = 0 → t.sres = 0) ∧ (s.sopa = 3 → t.sres = 1728)) ∧
  (∀ w : Word32, decodeWord w = .ok .smont ↔ w = 0x01000000)

/-- R411: SBARR. -/
def Obligations.SbarrResult : Prop :=
  (∀ s : State, ∃ t, exec .sbarr s = .next t ∧
    t = { s with sres := t.sres, status := doneStatus s.status, eng := .idle } ∧
    (t.sres.toNat : Int) = (s.sopa.toNat % 2 ^ 16 : Nat) - ((s.sopa.toNat % 2 ^ 16 * 5 / 2 ^ 16 * 12289 : Nat) : Int) ∧
    (s.sopa = 0 → t.sres = 0) ∧ (s.sopa = 12289 → t.sres = 12289) ∧ (s.sopa = 13108 → t.sres = 819) ∧
    (s.sopa = 65535 → t.sres = 16379) ∧ (s.sopa = 0x00010005 → t.sres = 5) ∧
    (s.sopa = 26214 → t.sres = 13925)) ∧
  (∀ w : Word32, decodeWord w = .ok .sbarr ↔ w = 0x02000000)

/-- R910: NOP; and what it leaves of an idle block when a host writes it to CMD and Complete follows. -/
def Obligations.NopOnlyReports : Prop :=
  (∀ s : State, exec .nop s = .next { s with status := doneStatus s.status, eng := .idle }) ∧
  (∀ w : Word32, decodeWord w = .ok .nop ↔ w = 0) ∧
  (∀ w : Word32, fieldOpc w = 0 → w ≠ 0 → decodeWord w = .error .resfield) ∧
  (∀ s : State, s.eng = .idle → s.status.busy = false →
    Host.Core.run Sys2Proof.core 2 { s with pending := [.write (aligned 0x018) 0x00000000, .complete] }
      = .next { s with status := ⟨false, true, false, s.status.cmdovf, 0⟩, pending := [], bus := .quiet,
                       tick := s.tick + 2 })

/-! ## Coefficient-wise arithmetic -/

/-- R601: PMUL. -/
def Obligations.PmulResult : Prop :=
  (∀ (rd rs1 rs2 : BufIdx) (s : State), (Instr.pmul rd rs1 rs2).wf s.cfg.npoly = true →
    ∃ t, exec (.pmul rd rs1 rs2) s = .next t ∧ WroteBuffer rd s.rng s t ∧
      ∀ k < 1024,
        wordAt (t.poly rd) k = mr (wordAt (s.poly rs1) k * mr (3186 * wordAt (s.poly rs2) k)) ∧
        wordAt (t.poly rd) k % Q = wordAt (s.poly rs1) k * wordAt (s.poly rs2) k % Q ∧
        wordAt (t.poly rd) k ≤ 15554) ∧
  (∀ w : Word32, (∃ rd rs1 rs2, decodeWord w = .ok (.pmul rd rs1 rs2)) ↔
    fieldOpc w = 0x20 ∧ w.extractLsb' 0 12 = 0) ∧
  pmulLane 12288 12288 = 12290 ∧ pmulLane 2 3 = 6

/-- R602: PADD. -/
def Obligations.PaddResult : Prop :=
  (∀ (rd rs1 rs2 : BufIdx) (s : State), (Instr.padd rd rs1 rs2).wf s.cfg.npoly = true →
    ∃ t, exec (.padd rd rs1 rs2) s = .next t ∧ WroteBuffer rd s.rng s t ∧
      ∀ k < 1024,
        wordAt (t.poly rd) k = br ((wordAt (s.poly rs1) k + wordAt (s.poly rs2) k) % 2 ^ 16) ∧
        wordAt (t.poly rd) k ≤ 16379 ∧
        (wordAt (s.poly rs1) k + wordAt (s.poly rs2) k ≤ 65535 →
          wordAt (t.poly rd) k % Q = (wordAt (s.poly rs1) k + wordAt (s.poly rs2) k) % Q) ∧
        (65536 ≤ wordAt (s.poly rs1) k + wordAt (s.poly rs2) k →
          wordAt (t.poly rd) k % Q = (wordAt (s.poly rs1) k + wordAt (s.poly rs2) k - 65536) % Q)) ∧
  (∀ w : Word32, (∃ rd rs1 rs2, decodeWord w = .ok (.padd rd rs1 rs2)) ↔
    fieldOpc w = 0x21 ∧ w.extractLsb' 0 12 = 0) ∧
  paddLane 65535 1 = 0 ∧ paddLane 40000 30000 = 4464 ∧ paddLane 32768 32768 = 0 ∧ paddLane 12288 12288 = 12287

/-- R603: CANON. -/
def Obligations.CanonResult : Prop :=
  (∀ (rd rs1 : BufIdx) (s : State), (Instr.canon rd rs1).wf s.cfg.npoly = true →
    ∃ t, exec (.canon rd rs1) s = .next t ∧ WroteBuffer rd s.rng s t ∧
      ∀ k < 1024, wordAt (t.poly rd) k = wordAt (s.poly rs1) k % Q) ∧
  (∀ w : Word32, (∃ rd rs1, decodeWord w = .ok (.canon rd rs1)) ↔
    fieldOpc w = 0x22 ∧ w.extractLsb' 0 16 = 0) ∧
  canon16 12289 = 0 ∧ canon16 24578 = 0 ∧ canon16 65535 = 4090

/-- R604: the output ranges. -/
def Obligations.PolyArithRanges : Prop :=
  (∀ a b, a < 2 ^ 16 → b < 2 ^ 16 → pmulLane a b ≤ 15554 ∧ pmulLane a b % Q = a * b % Q) ∧
  (∀ a b, a < 2 ^ 16 → b < 2 ^ 16 → a + b ≤ 65535 → paddLane a b ≤ 16379 ∧ paddLane a b % Q = (a + b) % Q) ∧
  (∀ a b, a < 2 ^ 16 → b < 2 ^ 16 → 65536 ≤ a + b →
    paddLane a b ≤ 16379 ∧ paddLane a b % Q = (a + b - 65536) % Q) ∧
  (∀ a < 2 ^ 16, canon16 a < Q ∧ canon16 a % Q = a % Q) ∧
  (∀ b < 2 ^ 16, mr (3186 * b) ≤ 13064)

/-- With tables below Q, every word a command writes is at most 16379 (R602), and so meets the conditions of R1111 as an
input to any command. -/
def Obligations.WrittenWordsMeetInputRanges : Prop :=
  ∀ (i : Instr) (s t : State), TablesBelowQ s.cfg.tables → exec i s = .next t →
    ∀ p, t.poly p = s.poly p ∨ ∀ x ∈ t.poly p, x ≤ 16379

/-! ## The transforms -/

/-- R503: bit reversal and PERMUTE. -/
def Obligations.BitReversal : Prop :=
  (∀ i < 1024, ∀ b < 10, (bitrev 10 i).testBit b = i.testBit (9 - b)) ∧ (∀ i < 1024, bitrev 10 i < 1024) ∧
  (∀ k < 512, ∀ b < 9, (bitrev 9 k).testBit b = k.testBit (8 - b)) ∧ (∀ k < 512, bitrev 9 k < 512) ∧
  (∀ a : List Nat, a.length = 1024 → ∀ i < 1024, wordAt (permute a) i = wordAt a (bitrev 10 i)) ∧
  (∀ a : List Nat, a.length = 1024 → permute (permute a) = a) ∧
  bitrev 10 1 = 512 ∧ bitrev 10 2 = 256 ∧ bitrev 10 3 = 768 ∧ bitrev 10 1023 = 1023

/-- R502: the default tables: every entry by its formula, all below Q, with the spot values and checksums printed. -/
def Obligations.StandardTables : Prop :=
  TablesBelowQ .standard ∧
  tPsiBr.length = 1024 ∧ tOmega.length = 512 ∧ tOmegaInv.length = 512 ∧ tPsiInv.length = 1024 ∧
  (∀ p < 1024, wordAt tPsiBr p = R * PSI ^ bitrev 10 p % Q) ∧
  (∀ k < 512, wordAt tOmega k = R * OMEGA ^ bitrev 9 k % Q) ∧
  (∀ k < 512, wordAt tOmegaInv k = R * OMEGA_INV ^ bitrev 9 k % Q) ∧
  (∀ m < 1024, wordAt tPsiInv m = R * NINV * PSI_INV ^ m % Q) ∧
  (tPsiBr.drop 512).take 4 = [3947, 11951, 2455, 6599] ∧ tOmega.drop 508 = [4414, 9442, 7917, 2174] ∧
  tOmegaInv.drop 508 = [2963, 7393, 2366, 9238] ∧ tPsiInv.drop 1020 = [12083, 10504, 12034, 10497] ∧
  [tPsiBr, tOmega, tOmegaInv, tPsiInv].map
      (fun t => ((List.range t.length).map fun i => (i + 1) * wordAt t i).sum % 2 ^ 32)
    = [3222361213, 816503085, 805661967, 3343788416] ∧
  tPsiBr.take 8 = [4075, 6974, 7373, 7965, 3262, 5079, 522, 2169] ∧ wordAt tPsiBr 1023 = 2929 ∧
  tOmega.take 8 = [4075, 6974, 7373, 7965, 3262, 5079, 522, 2169] ∧ wordAt tOmega 511 = 2174 ∧
  tOmegaInv.take 8 = [4075, 5315, 4324, 4916, 10120, 11767, 7210, 9027] ∧ wordAt tOmegaInv 511 = 9238 ∧
  tPsiInv.take 8 = [256, 10570, 1510, 7238, 1034, 7170, 6291, 7921] ∧ wordAt tPsiInv 1023 = 10497 ∧
  ∀ k < 512, wordAt tOmega k = wordAt tPsiBr k

/-- The model's network, which takes a level block by block, gives on every buffer what the loops of R505 give, written
as R505 writes them, butterfly by butterfly in place. -/
def Obligations.NetworkIsTheLoopsOfR505 : Prop :=
  ∀ a tw : List Nat, isBuffer a → tw.length = 512 → net a tw = netLoop a tw

/-- The range of NET (R506): inputs of at most 16383 give outputs of at most 16379, for twiddles below Q. -/
def Obligations.NetworkRange : Prop :=
  ∀ a tw : List Nat, a.length = 1024 → tw.length = 512 → (∀ x ∈ tw, x < Q) → (∀ x ∈ a, x ≤ 16383) →
    ∀ x ∈ net a tw, x ≤ 16379

/-- The function of NET (R507), with the standard twiddles. -/
def Obligations.NetworkFunction : Prop :=
  ∀ a : List Nat, a.length = 1024 → (∀ x ∈ a, x ≤ 16383) → ∀ m < 1024,
    wordAt (net a tOmega) m % Q
      = ((List.range 1024).map fun p => wordAt a p * OMEGA ^ (bitrev 10 p * m)).sum % Q ∧
    wordAt (net a tOmegaInv) m % Q
      = ((List.range 1024).map fun p => wordAt a p * OMEGA_INV ^ (bitrev 10 p * m)).sum % Q

/-- NTT (R510): the words it writes, for every table contents, and their range for tables below Q. -/
def Obligations.NttResult : Prop :=
  (∀ (rd rs1 : BufIdx) (s : State), (Instr.ntt rd rs1).wf s.cfg.npoly = true →
    ∃ t, exec (.ntt rd rs1) s = .next t ∧ WroteBuffer rd s.rng s t ∧
      t.poly rd = net
        (mulc (if s.cfg.fwdPermute then (List.range 1024).map fun i => wordAt (s.poly rs1) (bitrev 10 i)
          else s.poly rs1) (romPsiBr s.cfg.tables)) (romOmega s.cfg.tables) ∧
      (TablesBelowQ s.cfg.tables → ∀ x ∈ t.poly rd, x ≤ 16379)) ∧
  (∀ w : Word32, (∃ rd rs1, decodeWord w = .ok (.ntt rd rs1)) ↔ fieldOpc w = 0x10 ∧ w.extractLsb' 0 16 = 0)

/-- INTT (R511): the words it writes, for every table contents; for tables below Q every one is in [0, Q), whatever the
input. -/
def Obligations.InttResult : Prop :=
  (∀ (rd rs1 : BufIdx) (s : State), (Instr.intt rd rs1).wf s.cfg.npoly = true →
    ∃ t, exec (.intt rd rs1) s = .next t ∧ WroteBuffer rd s.rng s t ∧
      t.poly rd = (mulc (net ((List.range 1024).map fun i => wordAt (s.poly rs1) (bitrev 10 i))
        (romOmegaInv s.cfg.tables)) (romPsiInv s.cfg.tables)).map (fun x => if Q ≤ x then x - Q else x) ∧
      (TablesBelowQ s.cfg.tables → ∀ x ∈ t.poly rd, x < Q)) ∧
  (∀ w : Word32, (∃ rd rs1, decodeWord w = .ok (.intt rd rs1)) ↔ fieldOpc w = 0x11 ∧ w.extractLsb' 0 16 = 0)

/-- R512: word m of NTT(c) is congruent to c evaluated at PSI^(2m+1). Beside it, what INTT computes on words of at most
16383 (the corner case of R511): INTTm of R501. -/
def Obligations.TransformMeaning : Prop :=
  (∀ c : List Nat, isBuffer c → ∀ m < 1024,
    wordAt (nttWords true .standard c) m % Q = nttMath (c.map (· % Q)) m) ∧
  (∀ a : List Nat, a.length = 1024 → (∀ x ∈ a, x ≤ 16383) → ∀ j < 1024,
    wordAt (inttWords .standard a) j = inttMath a j)

/-- R513: the inverse law, and what replaces it with NTT_FWD_PERMUTE = 0. -/
def Obligations.InverseLaw : Prop :=
  (∀ p : List Nat, p.length = 1024 → (∀ x ∈ p, x < Q) → inttWords .standard (nttWords true .standard p) = p) ∧
  (∀ p : List Nat, isBuffer p → inttWords .standard (nttWords true .standard p) = p.map (· % Q)) ∧
  (∀ p : List Nat, isBuffer p →
    inttWords .standard (nttWords false .standard p) = permute (p.map (· % Q)))

/-- R514: the ring identity, and what replaces it with NTT_FWD_PERMUTE = 0. -/
def Obligations.RingIdentity : Prop :=
  ∀ a b : List Nat, isBuffer a → isBuffer b → ∀ k < 1024,
    wordAt (inttWords .standard
      (List.zipWith pmulLane (nttWords true .standard a) (nttWords true .standard b))) k = ringMul a b k ∧
    wordAt (inttWords .standard
      (List.zipWith pmulLane (nttWords false .standard a) (nttWords false .standard b))) k
        = ringMul (permute a) (permute b) k

/-! ## The samplers -/

/-- Which XOF words UNIFORM accepts, and the coefficient each yields (R701). -/
def Obligations.AcceptedWords : Prop :=
  ∀ w < 2 ^ 16,
    acceptWord .mask14 w = (if w % 16384 < 12289 then some (w % 16384) else none) ∧
    acceptWord .mult5q w = (if w < 61445 then some (w % 12289) else none)

/-- UNIFORM (R701, R703). The engine examines 4096 more XOF words in each turn, which is the model's choice
(notes/assumptions/5.md): where the words examined yield 1024 coefficients it writes the first 1024, and otherwise it
goes on running. -/
def Obligations.UniformResult : Prop :=
  ∀ (rd : BufIdx) (s : State), (Instr.uniform rd).wf s.cfg.npoly = true →
    (1024 ≤ (s.accepted (s.examined + 4096)).length →
      ∃ t, exec (.uniform rd) s = .next t ∧ WroteBuffer rd s.rng s t ∧
        t.poly rd = (s.accepted (s.examined + 4096)).take 1024 ∧ ∀ x ∈ t.poly rd, x < Q) ∧
    ((s.accepted (s.examined + 4096)).length < 1024 →
      exec (.uniform rd) s = .next { s with status := { s.status with busy := true },
                                            eng := .run (encode (.uniform rd)) (s.examined + 4096) })

/-- UNIFORM completes exactly when the stream holds 1024 acceptable words (R703, R905, U3): if some number of its words
yields 1024 coefficients, the engine's turns come to an end with those in the buffer; if no number does, ENG stays RUN
for ever. The number of turns is the model's choice (notes/assumptions/5.md). -/
def Obligations.UniformCompletesExactlyWhenItCan : Prop :=
  ∀ (rd : BufIdx) (s : State), (Instr.uniform rd).wf s.cfg.npoly = true →
    s.eng = .run (encode (.uniform rd)) 0 → s.pending = [] →
    (∀ words, 1024 ≤ (s.accepted words).length →
      ∃ n t, n ≤ words / 4096 + 1 ∧ Host.Core.run Sys2Proof.core n s = .next t ∧ t.eng = .idle ∧
        t.status.done = true ∧ t.poly rd = (s.accepted words).take 1024) ∧
    ((∀ words, (s.accepted words).length < 1024) →
      ∀ n, ∃ t, Host.Core.run Sys2Proof.core n s = .next t ∧ t.eng ≠ .idle)

/-- R710: NOISEC as the lane sum of the 32-bit draw, and its range. -/
def Obligations.NoiseCoefficient : Prop :=
  (∀ b0 b1 b2 b3 : Byte,
    let t : Nat := b0.toNat + 2 ^ 8 * b1.toNat + 2 ^ 16 * b2.toNat + 2 ^ 24 * b3.toNat
    let d : Nat := ((List.range 8).map fun j => (t >>> j) &&& 0x01010101).sum
    let a : Nat := d % 2 ^ 8 + d / 2 ^ 8 % 2 ^ 8
    let b : Nat := d / 2 ^ 16 % 2 ^ 8 + d / 2 ^ 24 % 2 ^ 8
    (noisec b0 b1 b2 b3 : Int) = ((a : Int) - (b : Int)) % (Q : Int) ∧ a ≤ 16 ∧ b ≤ 16 ∧
    (noisec b0 b1 b2 b3 ≤ 16 ∨ Q - 16 ≤ noisec b0 b1 b2 b3 ∧ noisec b0 b1 b2 b3 ≤ Q - 1))

/-- R711: NOISE, when its 4096 draws all succeed, and when one of them is the first FAIL. -/
def Obligations.NoiseResult : Prop :=
  (∀ (rd : BufIdx) (s : State), (Instr.noise rd).wf s.cfg.npoly = true →
    (∀ bs : List Byte, bs.length = 4096 → (∀ k < 4096, s.rng.answer k = some (byteAt bs k)) →
      ∃ t, exec (.noise rd) s = .next t ∧ WroteBuffer rd (s.rng.skip 4096) s t ∧
        ∀ i < 1024, wordAt (t.poly rd) i
          = noisec (byteAt bs (4 * i)) (byteAt bs (4 * i + 1)) (byteAt bs (4 * i + 2)) (byteAt bs (4 * i + 3)) ∧
          (wordAt (t.poly rd) i ≤ 16 ∨ 12273 ≤ wordAt (t.poly rd) i ∧ wordAt (t.poly rd) i ≤ 12288)) ∧
    (∀ j < 4096, s.rng.answer j = none → (∀ k < j, s.rng.answer k ≠ none) →
      exec (.noise rd) s = .next { s with status := errorStatus s.status 4, eng := .idle,
                                          rng := s.rng.skip (j + 1) })) ∧
  (∀ w : Word32, (∃ rd, decodeWord w = .ok (.noise rd)) ↔ fieldOpc w = 0x31 ∧ w.extractLsb' 0 20 = 0) ∧
  noisec 0 0 0 0 = 0 ∧ noisec 0xFF 0xFF 0xFF 0xFF = 0 ∧ noisec 0xFF 0xFF 0 0 = 16 ∧ noisec 0 0 0xFF 0xFF = 12273 ∧
  noisec 0x12 0x34 0x56 0x78 = 12286

/-! ## Reconciliation -/

/-- R802: F: the spot values; v0 is the nearest multiple of 2Q, halves rounded up; v1 is the multiple at or below x; m is
the distance to v0. -/
def Obligations.OneDimensionalDecode : Prop :=
  [0, 12289, 24578, 98304].map (fun x => (fV0 x, fV1 x, fM x))
    = [(0, 0, 0), (1, 0, 12289), (1, 1, 0), (4, 3, 8)] ∧
  ∀ x : Nat, 2 * Q * fV0 x ≤ x + Q ∧ x < 2 * Q * fV0 x + Q ∧ fM x ≤ Q ∧
    (fM x : Int) = |(x : Int) - 2 * Q * fV0 x| ∧ 2 * Q * fV1 x ≤ x ∧ x < 2 * Q * fV1 x + 2 * Q

/-- R803: G(x) is the distance from x to the nearest multiple of 8Q. -/
def Obligations.DistanceToNearestMultiple : Prop :=
  (∀ x : Nat, (∃ m : Nat, (distG x : Int) = |8 * (Q : Int) * m - x|) ∧
    ∀ m : Nat, (distG x : Int) ≤ |8 * (Q : Int) * m - x|) ∧
  [196624, 147467, 147468, 720904].map distG = [0, 49155, 49156, 32720]

/-- HELPREC (R810), when its 32 draws all succeed, and when one of them is the first FAIL. -/
def Obligations.HelprecResult : Prop :=
  (∀ (rd rs1 : BufIdx) (s : State), (Instr.helprec rd rs1).wf s.cfg.npoly = true →
    (∀ bs : List Byte, bs.length = 32 → (∀ k < 32, s.rng.answer k = some (byteAt bs k)) →
      ∃ t, exec (.helprec rd rs1) s = .next t ∧ WroteBuffer rd (s.rng.skip 32) s t ∧
        (∀ i < 256,
          let v := groupAt (s.poly rs1) i
          let rbit : Nat := (byteAt bs (i / 8)).toNat / 2 ^ (i % 8) % 2
          let x0 : Nat := 8 * v.l0 + 4 * rbit
          let x1 : Nat := 8 * v.l1 + 4 * rbit
          let x2 : Nat := 8 * v.l2 + 4 * rbit
          let x3 : Nat := 8 * v.l3 + 4 * rbit
          let sel : Nat := if 2 * Q ≤ fM x0 + fM x1 + fM x2 + fM x3 then 1 else 0
          let vt := fun x => if sel = 1 then fV1 x else fV0 x
          (wordAt (t.poly rd) i : Int) = ((vt x0 : Int) - (vt x3 : Int)) % 4 ∧
          (wordAt (t.poly rd) (256 + i) : Int) = ((vt x1 : Int) - (vt x3 : Int)) % 4 ∧
          (wordAt (t.poly rd) (512 + i) : Int) = ((vt x2 : Int) - (vt x3 : Int)) % 4 ∧
          wordAt (t.poly rd) (768 + i) = (sel + 2 * vt x3) % 4) ∧
        ∀ x ∈ t.poly rd, x ≤ 3) ∧
    (∀ j < 32, s.rng.answer j = none → (∀ k < j, s.rng.answer k ≠ none) →
      exec (.helprec rd rs1) s = .next { s with status := errorStatus s.status 4, eng := .idle,
                                                rng := s.rng.skip (j + 1) })) ∧
  (∀ w : Word32, (∃ rd rs1, decodeWord w = .ok (.helprec rd rs1)) ↔
    fieldOpc w = 0x40 ∧ w.extractLsb' 0 16 = 0) ∧
  helpGroup ⟨3072, 3072, 3072, 3072⟩ 0 = ⟨0, 0, 0, 2⟩

/-- REC (R804, R811): key bit i from group i of the vector and of the helper, bits 1:0 of each helper word. -/
def Obligations.RecResult : Prop :=
  (∀ (rs1 rs2 : BufIdx) (s : State), (Instr.reconcile rs1 rs2).wf s.cfg.npoly = true →
    ∃ t, exec (.reconcile rs1 rs2) s = .next t ∧
      t = { s with key := t.key, status := doneStatus s.status, eng := .idle } ∧
      ∀ i < 256,
        let v := groupAt (s.poly rs1) i
        let c := groupAt (s.poly rs2) i
        let x0 := 16 * Q + 8 * v.l0 - Q * (2 * (c.l0 % 4) + c.l3 % 4)
        let x1 := 16 * Q + 8 * v.l1 - Q * (2 * (c.l1 % 4) + c.l3 % 4)
        let x2 := 16 * Q + 8 * v.l2 - Q * (2 * (c.l2 % 4) + c.l3 % 4)
        let x3 := 16 * Q + 8 * v.l3 - Q * (c.l3 % 4)
        7 * Q ≤ x0 ∧ 7 * Q ≤ x1 ∧ 7 * Q ≤ x2 ∧ 7 * Q ≤ x3 ∧
        (t.key.toList.getD (i / 32) 0).getLsbD (i % 32)
          = xor (decide (distG x0 + distG x1 + distG x2 + distG x3 < 8 * Q)) s.cfg.recInvert) ∧
  (∀ w : Word32, (∃ rs1 rs2, decodeWord w = .ok (.reconcile rs1 rs2)) ↔
    fieldOpc w = 0x41 ∧ fieldRd w = 0 ∧ w.extractLsb' 0 12 = 0)

/-- R813: HELPREC and REC depend only on each word of the vector modulo Q. -/
def Obligations.ReconciliationIsModularInQ : Prop :=
  (∀ x : Nat, fV0 (x + 8 * Q) = fV0 x + 4 ∧ fV1 (x + 8 * Q) = fV1 x + 4 ∧ fM (x + 8 * Q) = fM x ∧
    distG (x + 8 * Q) = distG x) ∧
  (∀ v v' : List Nat, v.length = 1024 → v'.length = 1024 → v.map (· % Q) = v'.map (· % Q) →
    (∀ bs : List Byte, bs.length = 32 → helprecWords v bs = helprecWords v' bs) ∧
    (∀ (invert : Bool) (c : List Nat), c.length = 1024 → recBits invert v c = recBits invert v' c))

/-- REC uses only bits 1:0 of each helper word (R811), and the other value of REC_INVERT inverts every key bit
(R1114). -/
def Obligations.RecHelperBitsAndPolarity : Prop :=
  ∀ v c : List Nat, v.length = 1024 → c.length = 1024 →
    (∀ invert, recBits invert v c = recBits invert v (c.map (· % 4))) ∧
    recBits true v c = (recBits false v c).map (! ·)
end

