-- ==== Sys2Proof/Laws/Decode.lean ====
section
/-! SUPPORT. The fields of an assembled command word. -/
namespace Sys2Proof

theorem fieldOpc_assemble (opc : BitVec 8) (rd rs1 rs2 : BufIdx) : fieldOpc (assemble opc rd rs1 rs2) = opc := by
  ext i hi
  simp [fieldOpc, assemble]
  all_goals grind

theorem fieldRd_assemble (opc : BitVec 8) (rd rs1 rs2 : BufIdx) : fieldRd (assemble opc rd rs1 rs2) = rd := by
  ext i hi
  simp [fieldRd, assemble]
  all_goals grind

theorem fieldRs1_assemble (opc : BitVec 8) (rd rs1 rs2 : BufIdx) : fieldRs1 (assemble opc rd rs1 rs2) = rs1 := by
  ext i hi
  simp [fieldRs1, assemble]
  all_goals grind

theorem fieldRs2_assemble (opc : BitVec 8) (rd rs1 rs2 : BufIdx) : fieldRs2 (assemble opc rd rs1 rs2) = rs2 := by
  ext i hi
  simp [fieldRs2, assemble]
  all_goals grind

/-- RSVD of an assembled word is 0. -/
theorem rsvd_assemble (opc : BitVec 8) (rd rs1 rs2 : BufIdx) :
    (assemble opc rd rs1 rs2).extractLsb' 0 12 = 0 := by
  ext i hi
  simp [assemble]
  erw [BitVec.getLsbD_append]
  simp [hi]

end Sys2Proof
end

