-- ==== Sys2Proof/Laws/Memory.lean ====
section
/-! SUPPORT. The buffer file as bytes: what a read gives after a store or a forget, that both keep the canonical form,
and what a load gives. -/
namespace Sys2Proof.Machine

variable {m m' : Memory} {a b n : Nat} {bs : List Byte} {fill : Nat → Byte}

/-! ## Reading -/

theorem Memory.read_append :
    Memory.read (m ++ m') a = (Memory.read m a).or (Memory.read m' a) := by
  induction m with
  | nil => rfl
  | cons c m ih =>
    by_cases h : c.1 = a
    · simp [Memory.read, h]
    · simp [Memory.read, h, ih]

theorem Memory.read_filter (p : Nat → Bool) :
    Memory.read (m.filter fun c => p c.1) a = if p a then Memory.read m a else none := by
  induction m with
  | nil => simp [Memory.read]
  | cons c m ih =>
    by_cases hc : c.1 = a
    · subst hc
      by_cases hp : p c.1 <;> simp [hp, Memory.read, ih]
    · by_cases hp : p c.1 <;> simp [hp, Memory.read, ih, hc]

theorem Memory.read_below : (m.below b).read a = if a < b then m.read a else none := by
  simpa [Memory.below] using Memory.read_filter (m := m) (a := a) fun x => decide (x < b)

theorem Memory.read_fromOn : (m.fromOn b).read a = if b ≤ a then m.read a else none := by
  simpa [Memory.fromOn] using Memory.read_filter (m := m) (a := a) fun x => decide (b ≤ x)

theorem Memory.read_run (b : Nat) (bs : List Byte) (a : Nat) :
    (Memory.run b bs).read a = if b ≤ a then bs[a - b]? else none := by
  induction bs generalizing b with
  | nil => simp [Memory.run, Memory.read]
  | cons x bs ih =>
    simp only [Memory.run, Memory.read, ih]
    by_cases h : b = a
    · simp [h]
    · by_cases hl : b ≤ a
      · obtain ⟨k, rfl⟩ : ∃ k, a = b + 1 + k := ⟨a - b - 1, by omega⟩
        have h1 : b + 1 + k - b = k + 1 := by omega
        simp [h, h1, show b ≤ b + 1 + k by omega]
      · simp [h, hl, show ¬ b + 1 ≤ a by omega]

/-- Everything a store does, as a read sees it. -/
theorem Memory.read_store :
    (m.store b bs).read a = if b ≤ a ∧ a < b + bs.length then bs[a - b]? else m.read a := by
  simp only [Memory.store, Memory.read_append, Memory.read_below, Memory.read_run, Memory.read_fromOn]
  by_cases h1 : a < b
  · simp [h1, show ¬ b ≤ a by omega, show ¬ b + bs.length ≤ a by omega]
  · by_cases h2 : a < b + bs.length
    · have h3 : a - b < bs.length := by omega
      simp [h1, h2, show b ≤ a by omega, show ¬ b + bs.length ≤ a by omega, h3]
    · have h3 : bs.length ≤ a - b := by omega
      simp [h1, h2, show b + bs.length ≤ a by omega, h3]

/-- Everything a forget does, as a read sees it. -/
theorem Memory.read_forget :
    (m.forget b n).read a = if b ≤ a ∧ a < b + n then none else m.read a := by
  simp only [Memory.forget, Memory.read_append, Memory.read_below, Memory.read_fromOn]
  by_cases h1 : a < b
  · simp [h1, show ¬ b ≤ a by omega, show ¬ b + n ≤ a by omega]
  · by_cases h2 : a < b + n
    · simp [h1, h2, show b ≤ a by omega, show ¬ b + n ≤ a by omega]
    · simp [h1, h2, show b + n ≤ a by omega]

/-! ## The canonical form -/

theorem Memory.wf_iff : m.wf = true ↔ m.Pairwise fun c c' => c.1 < c'.1 := by
  induction m with
  | nil => simp [Memory.wf]
  | cons c m ih => simp [Memory.wf, ih, List.pairwise_cons]

theorem Memory.mem_run {c : Host.Cell} (h : c ∈ Memory.run b bs) : b ≤ c.1 ∧ c.1 < b + bs.length := by
  induction bs generalizing b with
  | nil => simp [Memory.run] at h
  | cons x bs ih =>
    simp only [Memory.run, List.mem_cons] at h
    obtain rfl | h := h
    · simp
    · have := ih h
      simp only [List.length_cons]
      omega

theorem Memory.wf_run : (Memory.run b bs).wf = true := by
  rw [Memory.wf_iff]
  induction bs generalizing b with
  | nil => simp [Memory.run]
  | cons x bs ih =>
    simp only [Memory.run, List.pairwise_cons]
    exact ⟨fun c hc => by have := Memory.mem_run hc; omega, ih⟩

/-- A store keeps the canonical form. -/
theorem Memory.wf_store (h : m.wf = true) : (m.store b bs).wf = true := by
  rw [Memory.wf_iff] at h ⊢
  simp only [Memory.store, Memory.below, Memory.fromOn, List.pairwise_append, List.mem_append, List.mem_filter,
    decide_eq_true_eq]
  refine ⟨⟨h.filter _, Memory.wf_iff.1 Memory.wf_run, ?_⟩, h.filter _, ?_⟩
  · rintro c ⟨-, hc⟩ c' hc'
    have := Memory.mem_run hc'
    omega
  · rintro c (⟨-, hc⟩ | hc) c' ⟨-, hc'⟩
    · omega
    · have := Memory.mem_run hc
      omega

/-- A forget keeps the canonical form. -/
theorem Memory.wf_forget (h : m.wf = true) : (m.forget b n).wf = true := by
  rw [Memory.wf_iff] at h ⊢
  simp only [Memory.forget, Memory.below, Memory.fromOn, List.pairwise_append, List.mem_filter, decide_eq_true_eq]
  refine ⟨h.filter _, h.filter _, ?_⟩
  rintro c ⟨-, hc⟩ c' ⟨-, hc'⟩
  omega

/-! ## Loading -/

@[simp] theorem Memory.walk_length : ∀ (n a : Nat) (m : Memory), (Memory.walk fill n a m).length = n
  | 0, _, _ => rfl
  | n + 1, a, [] => by simp [Memory.walk, Memory.walk_length n]
  | n + 1, a, c :: m => by
    simp only [Memory.walk]
    split <;> simp [Memory.walk_length n]

@[simp] theorem Memory.load_length : (m.load fill a n).length = n := by simp [Memory.load]

/-- On cells of the canonical form that start no lower than a, a walk reads each address. -/
theorem Memory.walk_eq_read : ∀ (n a : Nat) (m : Memory), m.Pairwise (fun c c' => c.1 < c'.1) → (∀ c ∈ m, a ≤ c.1) →
    Memory.walk fill n a m = (List.range n).map fun k => (m.read (a + k)).getD (fill (a + k))
  | 0, _, _, _, _ => rfl
  | n + 1, a, [], _, _ => by
    rw [Memory.walk, Memory.walk_eq_read n (a + 1) [] List.Pairwise.nil (by simp), List.range_succ_eq_map]
    simp only [Memory.read, List.map_cons, List.map_map, Nat.add_zero, Option.getD_none, List.cons.injEq, true_and]
    refine List.map_congr_left fun k _ => ?_
    simp [show a + 1 + k = a + (k + 1) by omega]
  | n + 1, a, c :: m, hp, hlo => by
    have hp' := List.pairwise_cons.1 hp
    rw [Memory.walk]
    by_cases hc : c.1 = a
    · have hlo' : ∀ c' ∈ m, a + 1 ≤ c'.1 := fun c' h => by have := hp'.1 c' h; omega
      rw [if_pos hc, Memory.walk_eq_read n (a + 1) m hp'.2 hlo', List.range_succ_eq_map]
      simp only [List.map_cons, List.map_map, Memory.read, hc, Nat.add_zero, if_true, Option.getD_some,
        List.cons.injEq, true_and]
      refine List.map_congr_left fun k _ => ?_
      simp [show a + 1 + k = a + (k + 1) by omega]
    · have hlo' : ∀ c' ∈ c :: m, a + 1 ≤ c'.1 := fun c' h => by
        have h0 := hlo c (by simp)
        rcases List.mem_cons.1 h with rfl | h
        · omega
        · have := hp'.1 c' h
          omega
      have hnone : Memory.read (c :: m) a = none := by
        have hr : ∀ l : Memory, (∀ c' ∈ l, a + 1 ≤ c'.1) → Memory.read l a = none := by
          intro l hl
          induction l with
          | nil => rfl
          | cons d l ih =>
            have := hl d (by simp)
            simp [Memory.read, show ¬ d.1 = a by omega, ih fun c' h => hl c' (by simp [h])]
        exact hr _ hlo'
      rw [if_neg hc, Memory.walk_eq_read n (a + 1) (c :: m) hp hlo', List.range_succ_eq_map]
      simp only [List.map_cons, List.map_map, Nat.add_zero, hnone, Option.getD_none, List.cons.injEq, true_and]
      refine List.map_congr_left fun k _ => ?_
      simp [show a + 1 + k = a + (k + 1) by omega]

/-- On the canonical form, a load reads each address, and gives the free value where the address holds no value. -/
theorem Memory.load_eq_read (h : m.wf = true) :
    m.load fill a n = (List.range n).map fun k => (m.read (a + k)).getD (fill (a + k)) := by
  have hp := Memory.wf_iff.1 h
  rw [Memory.load, Memory.walk_eq_read]
  · refine List.map_congr_left fun k hk => ?_
    have hk := List.mem_range.1 hk
    simp [Memory.read_below, Memory.read_fromOn, hk]
  · exact (hp.filter _).filter _
  · intro c hc
    simp only [Memory.below, Memory.fromOn, List.mem_filter, decide_eq_true_eq] at hc
    exact hc.1.2

theorem Memory.walk_run : ∀ (a : Nat) (bs : List Byte), Memory.walk fill bs.length a (Memory.run a bs) = bs
  | _, [] => rfl
  | a, b :: bs => by simp [Memory.run, Memory.walk, Memory.walk_run (a + 1) bs]

/-- A load of what was just stored gives it back. -/
theorem Memory.load_store_same : (m.store a bs).load fill a bs.length = bs := by
  have h : ((m.store a bs).fromOn a).below (a + bs.length) = Memory.run a bs := by
    simp only [Memory.store, Memory.below, Memory.fromOn, List.filter_append, List.filter_filter]
    have h1 : (m.filter fun c => decide (c.1 < a + bs.length) && (decide (a ≤ c.1) && decide (c.1 < a))) = [] := by
      refine List.filter_eq_nil_iff.2 fun c _ => ?_
      simp
    have h2 : ((Memory.run a bs).filter fun c => decide (c.1 < a + bs.length) && decide (a ≤ c.1))
        = Memory.run a bs := by
      refine List.filter_eq_self.2 fun c hc => ?_
      have := Memory.mem_run hc
      simp
      omega
    have h3 : (m.filter fun c => decide (c.1 < a + bs.length) && (decide (a ≤ c.1) && decide (a + bs.length ≤ c.1)))
        = [] := by
      refine List.filter_eq_nil_iff.2 fun c _ => ?_
      simp
      omega
    rw [h1, h2, h3]
    simp
  rw [Memory.load, h, Memory.walk_run]

/-- A load elsewhere is not changed by a store. -/
theorem Memory.load_store_other (h : a + n ≤ b ∨ b + bs.length ≤ a) :
    (m.store b bs).load fill a n = m.load fill a n := by
  have e : ((m.store b bs).fromOn a).below (a + n) = (m.fromOn a).below (a + n) := by
    simp only [Memory.store, Memory.below, Memory.fromOn, List.filter_append, List.filter_filter]
    have h1 : ((Memory.run b bs).filter fun c => decide (c.1 < a + n) && decide (a ≤ c.1)) = [] := by
      refine List.filter_eq_nil_iff.2 fun c hc => ?_
      have := Memory.mem_run hc
      simp
      omega
    rw [h1, List.append_nil]
    rcases h with h | h
    · have h2 : (m.filter fun c => decide (c.1 < a + n) && (decide (a ≤ c.1) && decide (b + bs.length ≤ c.1)))
          = [] := by
        refine List.filter_eq_nil_iff.2 fun c _ => ?_
        simp
        omega
      rw [h2, List.append_nil]
      refine List.filter_congr fun c _ => ?_
      rw [Bool.eq_iff_iff]
      simp only [Bool.and_eq_true, decide_eq_true_eq]
      omega
    · have h2 : (m.filter fun c => decide (c.1 < a + n) && (decide (a ≤ c.1) && decide (c.1 < b))) = [] := by
        refine List.filter_eq_nil_iff.2 fun c _ => ?_
        simp
        omega
      rw [h2, List.nil_append]
      refine List.filter_congr fun c _ => ?_
      rw [Bool.eq_iff_iff]
      simp only [Bool.and_eq_true, decide_eq_true_eq]
      omega
  rw [Memory.load, e, Memory.load]

end Sys2Proof.Machine
end

