-- ==== Sys2Proof/Laws/Ops.lean ====
section
/-! SUPPORT. What the shared operations give: buffers read after a write, the RNG port's draws, and the field check. -/
namespace Sys2Proof.Machine

/-! ## Words and bytes -/

theorem wordsOfBytes_length : ∀ bs : List Byte, (wordsOfBytes bs).length = bs.length / 2
  | [] => rfl
  | [_] => by simp [wordsOfBytes]
  | _ :: _ :: bs => by
    simp only [wordsOfBytes, List.length_cons, wordsOfBytes_length bs]
    omega

@[simp] theorem bytesOfWords_length : ∀ ws : List Nat, (bytesOfWords ws).length = 2 * ws.length
  | [] => rfl
  | _ :: ws => by
    simp only [bytesOfWords, List.length_cons, bytesOfWords_length ws]
    omega

/-- Words written as bytes read back as they were, cut to 16 bits. -/
theorem wordsOfBytes_bytesOfWords : ∀ ws : List Nat, wordsOfBytes (bytesOfWords ws) = ws.map (· % 2 ^ 16)
  | [] => rfl
  | w :: ws => by
    simp only [bytesOfWords, wordsOfBytes, BitVec.toNat_ofNat, wordsOfBytes_bytesOfWords ws, List.map_cons,
      List.cons.injEq, and_true]
    omega

theorem wordsOfBytes_lt : ∀ (bs : List Byte), ∀ x ∈ wordsOfBytes bs, x < 2 ^ 16
  | [], x, h => by simp [wordsOfBytes] at h
  | [_], x, h => by simp [wordsOfBytes] at h
  | lo :: hi :: bs, x, h => by
    simp only [wordsOfBytes, List.mem_cons] at h
    rcases h with rfl | h
    · have := lo.isLt
      have := hi.isLt
      omega
    · exact wordsOfBytes_lt bs x h

@[simp] theorem bytesOfWord32_length (w : Word32) : (bytesOfWord32 w).length = 4 := rfl

/-! ## Buffers -/

@[simp] theorem State.poly_length (s : State) (p : BufIdx) : (s.poly p).length = 1024 := by
  simp [State.poly, wordsOfBytes_length]

theorem State.poly_lt (s : State) (p : BufIdx) : ∀ x ∈ s.poly p, x < 2 ^ 16 := wordsOfBytes_lt _

/-- A buffer written with 1024 words reads back as those words, cut to 16 bits. -/
theorem State.poly_writePoly_same (s : State) (p : BufIdx) {ws : List Nat} (h : ws.length = 1024) :
    (s.writePoly p ws).poly p = ws.map (· % 2 ^ 16) := by
  have hl : (bytesOfWords ws).length = 2048 := by simp [h]
  have e : (s.writePoly p ws).fill = s.fill := rfl
  simp only [State.poly, e]
  rw [show (s.writePoly p ws).mem = s.mem.store (bufBase p.toNat) (bytesOfWords ws) from rfl, ← hl,
    Memory.load_store_same, wordsOfBytes_bytesOfWords]

/-- A buffer other than the one written reads as before. -/
theorem State.poly_writePoly_other (s : State) {p p' : BufIdx} {ws : List Nat} (h : ws.length = 1024) (hp : p' ≠ p) :
    (s.writePoly p ws).poly p' = s.poly p' := by
  have hl : (bytesOfWords ws).length = 2048 := by simp [h]
  have hne : p'.toNat ≠ p.toNat := fun e => hp (BitVec.eq_of_toNat_eq e)
  have e : (s.writePoly p ws).fill = s.fill := rfl
  simp only [State.poly, e]
  rw [show (s.writePoly p ws).mem = s.mem.store (bufBase p.toNat) (bytesOfWords ws) from rfl,
    Memory.load_store_other]
  rw [hl]
  simp only [bufBase]
  omega

/-- Bytes outside a buffer read as before after the buffer is written. -/
theorem State.read_writePoly_outside (s : State) (p : BufIdx) {ws : List Nat} {a : Nat} (h : ws.length = 1024)
    (ha : a < bufBase p.toNat ∨ bufBase p.toNat + 2048 ≤ a) :
    (s.writePoly p ws).mem.read a = s.mem.read a := by
  have hl : (bytesOfWords ws).length = 2048 := by simp [h]
  rw [show (s.writePoly p ws).mem = s.mem.store (bufBase p.toNat) (bytesOfWords ws) from rfl, Memory.read_store, hl]
  rw [if_neg (by omega)]

/-- A buffer that is forgotten holds no value, and the others read as before. -/
theorem State.read_forgetPoly (s : State) (p : BufIdx) (a : Nat) :
    (s.forgetPoly p).mem.read a
      = if bufBase p.toNat ≤ a ∧ a < bufBase p.toNat + 2048 then none else s.mem.read a :=
  Memory.read_forget

/-! ## The field check -/

/-- Everything the field check does. -/
theorem State.withFields_cases (s : State) (fields : List BufIdx) (k : State → State) :
    ((∀ f ∈ fields, f.toNat < s.cfg.npoly) ∧ s.withFields fields k = k s) ∨
    ((∃ f ∈ fields, s.cfg.npoly ≤ f.toNat) ∧ s.withFields fields k = s.raise .badIndex) := by
  by_cases h : ∀ f ∈ fields, f.toNat < s.cfg.npoly
  · exact .inl ⟨h, by simp [State.withFields, List.all_eq_true.2 fun f hf => decide_eq_true (h f hf)]⟩
  · refine .inr ⟨by simpa using h, ?_⟩
    rw [State.withFields, if_neg]
    simpa using h

/-! ## The RNG port -/

/-- The port gives answer 0 and then stands one answer further on. -/
theorem Rng.next_eq (r : Rng) :
    r.next = ((match r.answers with | [] => Config.rngAnswer r.pos | a :: _ => a), r.skip 1) := by
  rcases r with ⟨_ | ⟨a, l⟩, n⟩ <;> rfl

theorem Rng.skip_skip (r : Rng) (m n : Nat) : (r.skip m).skip n = r.skip (m + n) := by
  simp [Rng.skip, List.drop_drop, Nat.add_assoc]

/-- Everything n draws do: n bytes and the port n answers on, or no bytes after at least one and at most n answers. -/
theorem Rng.draw_cases (n : Nat) (r : Rng) :
    (∃ bs, bs.length = n ∧ r.draw n = (some bs, r.skip n)) ∨
    (∃ j < n, r.draw n = (none, r.skip (j + 1))) := by
  induction n generalizing r with
  | zero => exact .inl ⟨[], rfl, by simp [Rng.draw, Rng.skip]⟩
  | succ n ih =>
    rw [Rng.draw, Rng.next_eq]
    cases hb : (match r.answers with | [] => Config.rngAnswer r.pos | a :: _ => a) with
    | none => exact .inr ⟨0, by omega, by simp⟩
    | some b =>
      rcases ih (r.skip 1) with ⟨bs, hl, h⟩ | ⟨j, hj, h⟩
      · refine .inl ⟨b :: bs, by simp [hl], ?_⟩
        simp [h, Rng.skip_skip, Nat.add_comm]
      · refine .inr ⟨j + 1, by omega, ?_⟩
        simp [h, Rng.skip_skip, Nat.add_comm]

end Sys2Proof.Machine
end

