-- ==== Sys2Proof/Laws/PerInstr.lean ====
section
/-! SUPPORT. Statements about every command, made constructor by constructor. -/
namespace Sys2Proof

/-- The word of a command has an assigned opcode, and its RSVD field is 0 (R302, R303). -/
def Laws.EncodedRow.Statement (i : Instr) : Prop :=
  (∃ r ∈ opcodeTable, fieldOpc r.pattern = fieldOpc (encode i)) ∧ (encode i).extractLsb' 0 12 = 0

theorem Laws.EncodedRow.of_assemble {opc : BitVec 8} {rd rs1 rs2 : BufIdx}
    (h : ∃ r ∈ opcodeTable, fieldOpc r.pattern = opc) :
    (∃ r ∈ opcodeTable, fieldOpc r.pattern = fieldOpc (assemble opc rd rs1 rs2)) ∧
      (assemble opc rd rs1 rs2).extractLsb' 0 12 = 0 :=
  ⟨by rwa [fieldOpc_assemble], rsvd_assemble opc rd rs1 rs2⟩

theorem Laws.EncodedRow.nop : Laws.EncodedRow.Statement .nop :=
  Laws.EncodedRow.of_assemble (by decide)

theorem Laws.EncodedRow.smont : Laws.EncodedRow.Statement .smont :=
  Laws.EncodedRow.of_assemble (by decide)

theorem Laws.EncodedRow.sbarr : Laws.EncodedRow.Statement .sbarr :=
  Laws.EncodedRow.of_assemble (by decide)

theorem Laws.EncodedRow.ntt (rd rs1 : BufIdx) : Laws.EncodedRow.Statement (.ntt rd rs1) :=
  Laws.EncodedRow.of_assemble (by decide)

theorem Laws.EncodedRow.intt (rd rs1 : BufIdx) : Laws.EncodedRow.Statement (.intt rd rs1) :=
  Laws.EncodedRow.of_assemble (by decide)

theorem Laws.EncodedRow.pmul (rd rs1 rs2 : BufIdx) : Laws.EncodedRow.Statement (.pmul rd rs1 rs2) :=
  Laws.EncodedRow.of_assemble (by decide)

theorem Laws.EncodedRow.padd (rd rs1 rs2 : BufIdx) : Laws.EncodedRow.Statement (.padd rd rs1 rs2) :=
  Laws.EncodedRow.of_assemble (by decide)

theorem Laws.EncodedRow.canon (rd rs1 : BufIdx) : Laws.EncodedRow.Statement (.canon rd rs1) :=
  Laws.EncodedRow.of_assemble (by decide)

theorem Laws.EncodedRow.uniform (rd : BufIdx) : Laws.EncodedRow.Statement (.uniform rd) :=
  Laws.EncodedRow.of_assemble (by decide)

theorem Laws.EncodedRow.noise (rd : BufIdx) : Laws.EncodedRow.Statement (.noise rd) :=
  Laws.EncodedRow.of_assemble (by decide)

theorem Laws.EncodedRow.helprec (rd rs1 : BufIdx) : Laws.EncodedRow.Statement (.helprec rd rs1) :=
  Laws.EncodedRow.of_assemble (by decide)

theorem Laws.EncodedRow.reconcile (rs1 rs2 : BufIdx) : Laws.EncodedRow.Statement (.reconcile rs1 rs2) :=
  Laws.EncodedRow.of_assemble (by decide)

end Sys2Proof
end

