-- ==== Sys2Proof/Laws/Transform.lean ====
section
/-! SUPPORT. The transform engine position by position: what PERMUTE and a level of NET put at each index, and that every
stage keeps 1024 words. -/
namespace Sys2Proof.Machine

/-! ## Bit reversal -/

theorem evens_getElem? {α : Type} : ∀ (l : List α) (i : Nat), (evens l)[i]? = l[2 * i]?
  | [], i => by simp [evens]
  | [a], 0 => by simp [evens]
  | [a], i + 1 => by simp [evens]
  | a :: b :: l, 0 => by simp [evens]
  | a :: b :: l, i + 1 => by
    have h := evens_getElem? l i
    simp [evens, h, show 2 * (i + 1) = 2 * i + 1 + 1 by omega]

theorem odds_getElem? {α : Type} : ∀ (l : List α) (i : Nat), (odds l)[i]? = l[2 * i + 1]?
  | [], i => by simp [odds]
  | [a], i => by simp [odds]
  | a :: b :: l, 0 => by simp [odds]
  | a :: b :: l, i + 1 => by
    have h := odds_getElem? l i
    simp [odds, h, show 2 * (i + 1) = 2 * i + 1 + 1 by omega]

theorem evens_length {α : Type} : ∀ l : List α, (evens l).length = (l.length + 1) / 2
  | [] => by simp [evens]
  | [_] => by simp [evens]
  | _ :: _ :: l => by
    simp only [evens, List.length_cons, evens_length l]
    omega

theorem odds_length {α : Type} : ∀ l : List α, (odds l).length = l.length / 2
  | [] => by simp [odds]
  | [_] => by simp [odds]
  | _ :: _ :: l => by
    simp only [odds, List.length_cons, odds_length l]
    omega

@[simp] theorem reorder_length {α : Type} (n : Nat) (l : List α) : (reorder n l).length = l.length := by
  induction n generalizing l with
  | zero => rfl
  | succ n ih =>
    simp only [reorder, List.length_append, ih, evens_length, odds_length]
    omega

theorem reorder_getElem? {α : Type} (n : Nat) (l : List α) (h : l.length = 2 ^ n) {i : Nat} (hi : i < 2 ^ n) :
    (reorder n l)[i]? = l[bitrev n i]? := by
  induction n generalizing l i with
  | zero =>
    have : i = 0 := by simpa using hi
    simp [reorder, bitrev, this]
  | succ n ih =>
    have h2 : 2 ^ (n + 1) = 2 * 2 ^ n := by rw [Nat.pow_succ, Nat.mul_comm]
    have he : (evens l).length = 2 ^ n := by rw [evens_length]; omega
    have ho : (odds l).length = 2 ^ n := by rw [odds_length]; omega
    simp only [reorder, bitrev]
    by_cases hlt : i < 2 ^ n
    · rw [List.getElem?_append_left (by simp [he, hlt]), ih _ he hlt, evens_getElem?, Nat.mod_eq_of_lt hlt,
        Nat.div_eq_of_lt hlt, Nat.zero_mod, Nat.add_zero]
    · obtain ⟨k, rfl⟩ : ∃ k, i = 2 ^ n + k := ⟨i - 2 ^ n, by omega⟩
      have hk : k < 2 ^ n := by omega
      have hd : (2 ^ n + k) / 2 ^ n = 1 := by
        rw [Nat.add_div_left _ (Nat.two_pow_pos n), Nat.div_eq_of_lt hk]
      rw [List.getElem?_append_right (by simp [he]), reorder_length, he, Nat.add_sub_cancel_left, ih _ ho hk,
        odds_getElem?, Nat.add_mod_left, Nat.mod_eq_of_lt hk, hd]

/-- PERMUTE(a)[i] = a[BITREV10(i)] (R503). -/
theorem permute_getElem? (a : List Nat) (h : a.length = 1024) {i : Nat} (hi : i < 1024) :
    (permute a)[i]? = a[bitrev 10 i]? := reorder_getElem? 10 a h hi

@[simp] theorem permute_length (a : List Nat) : (permute a).length = a.length := reorder_length 10 a

/-! ## The network -/

/-- What a level of NET at distance d puts at position x (R505): the position is the lower one of a butterfly when it
lies in the first half of its block of 2d words, and the block number is the twiddle index. -/
theorem netLevel_getElem? (odd : Bool) (d : Nat) (hd : 0 < d) (tw a : List Nat) (h : a.length = 2 * d * tw.length)
    {x : Nat} (hx : x < a.length) :
    (netLevel odd d tw a)[x]? =
      if x % (2 * d) < d then some (butterflySum odd (a.getD x 0) (a.getD (x + d) 0))
      else some (butterflyTwiddle (tw.getD (x / (2 * d)) 0) (a.getD (x - d) 0) (a.getD x 0)) := by
  induction tw generalizing a x with
  | nil => simp at h; simp [h] at hx
  | cons w tw ih =>
    have hlen : 2 * d ≤ a.length := by
      rw [h, List.length_cons, Nat.mul_add]; omega
    have hlo : (a.take d).length = d := by simp; omega
    have hhi : ((a.drop d).take d).length = d := by simp; omega
    have hzs : (List.zipWith (butterflySum odd) (a.take d) ((a.drop d).take d)).length = d := by simp; omega
    have hzt : (List.zipWith (butterflyTwiddle w) (a.take d) ((a.drop d).take d)).length = d := by simp; omega
    rw [netLevel, List.append_assoc]
    by_cases h1 : x < d
    · have hmod : x % (2 * d) = x := Nat.mod_eq_of_lt (by omega)
      rw [List.getElem?_append_left (by omega), hmod, if_pos h1, List.getElem?_zipWith]
      simp [h1, List.getElem?_drop, List.getD, Nat.add_comm d x,
        List.getElem?_eq_getElem (show x < a.length by omega),
        List.getElem?_eq_getElem (show x + d < a.length by omega)]
    · rw [List.getElem?_append_right (by omega), hzs]
      by_cases h2 : x < 2 * d
      · have hmod : x % (2 * d) = x := Nat.mod_eq_of_lt h2
        have hdiv : x / (2 * d) = 0 := Nat.div_eq_of_lt h2
        have e : d + (x - d) = x := by omega
        rw [List.getElem?_append_left (by omega), hmod, if_neg h1, hdiv, List.getElem?_zipWith]
        simp [show x - d < d by omega, List.getElem?_drop, List.getD, e,
          List.getElem?_eq_getElem (show x < a.length by omega),
          List.getElem?_eq_getElem (show x - d < a.length by omega)]
      · obtain ⟨y, rfl⟩ : ∃ y, x = 2 * d + y := ⟨x - 2 * d, by omega⟩
        have hdl : (a.drop (2 * d)).length = 2 * d * tw.length := by
          rw [List.length_drop, h, List.length_cons, Nat.mul_add]; omega
        have hy : y < (a.drop (2 * d)).length := by simp; omega
        rw [List.getElem?_append_right (by omega), hzt, show 2 * d + y - d - d = y by omega, ih _ hdl hy,
          Nat.add_mod_left, Nat.add_div_left _ (by omega)]
        by_cases h3 : y % (2 * d) < d
        · simp [h3, List.getD, List.getElem?_drop, Nat.add_assoc]
        · have hyd : d ≤ y := by
            have := Nat.mod_le y (2 * d)
            omega
          simp [h3, List.getD, List.getElem?_drop, show 2 * d + y - d = 2 * d + (y - d) by omega]

theorem netLevel_length (odd : Bool) (d : Nat) (tw a : List Nat) (h : a.length = 2 * d * tw.length) :
    (netLevel odd d tw a).length = a.length := by
  induction tw generalizing a with
  | nil => simp at h; simp [netLevel, h]
  | cons w tw ih =>
    have hl : a.length = 2 * d + 2 * d * tw.length := by rw [h, List.length_cons, Nat.mul_add]; omega
    have hdl : (a.drop (2 * d)).length = 2 * d * tw.length := by simp; omega
    simp only [netLevel, List.length_append, List.length_zipWith, List.length_take, List.length_drop, ih _ hdl]
    omega

/-- NET keeps 1024 words. -/
theorem net_length (a tw : List Nat) (ha : a.length = 1024) (ht : tw.length = 512) : (net a tw).length = 1024 := by
  have step : ∀ (odd : Bool) (lvl : Nat) (a : List Nat), lvl < 10 → a.length = 1024 →
      (netLevel odd (2 ^ lvl) (tw.take (1024 / (2 * 2 ^ lvl))) a).length = 1024 := by
    intro odd lvl a hl ha
    rw [netLevel_length, ha]
    rw [ha, List.length_take, ht]
    interval_cases lvl <;> rfl
  have go : ∀ n lvl (a : List Nat), lvl + n ≤ 10 → a.length = 1024 → (netFrom tw n lvl a).length = 1024 := by
    intro n
    induction n with
    | zero => intro lvl a _ ha; exact ha
    | succ n ih => intro lvl a hl ha; exact ih _ _ (by omega) (step _ _ _ (by omega) ha)
  exact go 10 0 a (by omega) ha

@[simp] theorem mulc_length (a t : List Nat) : (mulc a t).length = min a.length t.length := by simp [mulc]

@[simp] theorem romPsiBr_length (rom : TableRom) : (romPsiBr rom).length = 1024 := by
  cases rom <;> simp [romPsiBr, tPsiBr, tableWords]

@[simp] theorem romOmega_length (rom : TableRom) : (romOmega rom).length = 512 := by
  cases rom <;> simp [romOmega, tOmega, tableWords]

@[simp] theorem romOmegaInv_length (rom : TableRom) : (romOmegaInv rom).length = 512 := by
  cases rom <;> simp [romOmegaInv, tOmegaInv, tableWords]

@[simp] theorem romPsiInv_length (rom : TableRom) : (romPsiInv rom).length = 1024 := by
  cases rom <;> simp [romPsiInv, tPsiInv, tableWords]

theorem nttWords_length (first : Bool) (rom : TableRom) (a : List Nat) (h : a.length = 1024) :
    (nttWords first rom a).length = 1024 :=
  net_length _ _ (by cases first <;> simp [h]) (by simp)

theorem inttWords_length (rom : TableRom) (a : List Nat) (h : a.length = 1024) :
    (inttWords rom a).length = 1024 := by
  simp [inttWords, net_length _ _ (show (permute a).length = 1024 by simp [h]) (romOmegaInv_length rom)]

end Sys2Proof.Machine
end

