-- ==== Sys2Proof/Laws/Results.lean ====
section
/-! SUPPORT. The samplers and the reconciliation, position by position, and that what they write is 1024 words. -/
namespace Sys2Proof.Machine

/-! ## Samplers -/

/-- Everything the rejection sampler does: the first n coefficients of the words, or none where there are fewer. -/
theorem collect_eq (mode : UniformMode) (n : Nat) (ws : List Nat) :
    collect mode n ws =
      if n ≤ (ws.filterMap (acceptWord mode)).length then some ((ws.filterMap (acceptWord mode)).take n)
      else none := by
  induction ws generalizing n with
  | nil => cases n <;> simp [collect]
  | cons w ws ih =>
    cases n with
    | zero => simp [collect]
    | succ n =>
      cases hw : acceptWord mode w with
      | none => simp [collect, hw, ih]
      | some v =>
        simp only [collect, hw, ih, List.filterMap_cons, List.length_cons, Nat.add_le_add_iff_right,
          List.take_succ_cons]
        split <;> simp

theorem collect_length {mode : UniformMode} {n : Nat} {ws vs : List Nat} (h : collect mode n ws = some vs) :
    vs.length = n := by
  rw [collect_eq] at h
  split at h
  · rename_i hn
    injection h with h
    rw [← h, List.length_take]
    omega
  · cases h

theorem noiseWords_length : ∀ bs : List Byte, (noiseWords bs).length = bs.length / 4
  | [] => rfl
  | [_] => by simp [noiseWords]
  | [_, _] => by simp [noiseWords]
  | [_, _, _] => by simp [noiseWords]
  | _ :: _ :: _ :: _ :: bs => by
    simp only [noiseWords, List.length_cons, noiseWords_length bs]
    omega

/-! ## Reconciliation -/

theorem groups_length (a : List Nat) (h : a.length = 1024) : (groups a).length = 256 := by
  simp [groups, h]

/-- Group i has the words at i, 256 + i, 512 + i and 768 + i (R800). -/
theorem groups_getElem? (a : List Nat) (h : a.length = 1024) {i : Nat} (hi : i < 256) :
    (groups a)[i]? = some ⟨a.getD i 0, a.getD (256 + i) 0, a.getD (512 + i) 0, a.getD (768 + i) 0⟩ := by
  simp [groups, List.getElem?_zipWith, List.zip, List.getElem?_drop, hi, List.getD,
    List.getElem?_eq_getElem (show i < a.length by omega),
    List.getElem?_eq_getElem (show 256 + i < a.length by omega),
    List.getElem?_eq_getElem (show 512 + i < a.length by omega),
    List.getElem?_eq_getElem (show 768 + i < a.length by omega)]

theorem randomBits_length (bs : List Byte) : (randomBits bs).length = 8 * bs.length := by
  induction bs with
  | nil => rfl
  | cons b bs ih =>
    simp only [randomBits, List.flatMap_cons, List.length_append, List.length_map, List.length_range,
      List.length_cons] at ih ⊢
    omega

@[simp] theorem ungroup_length (gs : List Lanes) : (ungroup gs).length = 4 * gs.length := by
  simp [ungroup]
  omega

theorem helprecWords_length (v : List Nat) (bs : List Byte) (hv : v.length = 1024) (hb : bs.length = 32) :
    (helprecWords v bs).length = 1024 := by
  simp [helprecWords, groups_length v hv, randomBits_length, hb]

theorem recBits_length (invert : Bool) (v c : List Nat) (hv : v.length = 1024) (hc : c.length = 1024) :
    (recBits invert v c).length = 256 := by
  simp [recBits, groups_length v hv, groups_length c hc]

end Sys2Proof.Machine
end

