-- ==== Sys2Proof/Laws/State.lean ====
section
/-! SUPPORT. What each update of the state leaves in each field: one lemma per field per update. -/
namespace Sys2Proof.Machine

/-! ## writePoly -/

@[simp] theorem State.writePoly_mem (s : State) (p : BufIdx) (ws : List Nat) :
    (s.writePoly p ws).mem = s.mem.store (bufBase p.toNat) (bytesOfWords ws) := rfl
@[simp] theorem State.writePoly_seed (s : State) (p : BufIdx) (ws : List Nat) :
    (s.writePoly p ws).seed = s.seed := rfl
@[simp] theorem State.writePoly_key (s : State) (p : BufIdx) (ws : List Nat) :
    (s.writePoly p ws).key = s.key := rfl
@[simp] theorem State.writePoly_sopa (s : State) (p : BufIdx) (ws : List Nat) :
    (s.writePoly p ws).sopa = s.sopa := rfl
@[simp] theorem State.writePoly_sres (s : State) (p : BufIdx) (ws : List Nat) :
    (s.writePoly p ws).sres = s.sres := rfl
@[simp] theorem State.writePoly_ie (s : State) (p : BufIdx) (ws : List Nat) :
    (s.writePoly p ws).ie = s.ie := rfl
@[simp] theorem State.writePoly_status (s : State) (p : BufIdx) (ws : List Nat) :
    (s.writePoly p ws).status = s.status := rfl
@[simp] theorem State.writePoly_eng (s : State) (p : BufIdx) (ws : List Nat) :
    (s.writePoly p ws).eng = s.eng := rfl
@[simp] theorem State.writePoly_cfg (s : State) (p : BufIdx) (ws : List Nat) :
    (s.writePoly p ws).cfg = s.cfg := rfl
@[simp] theorem State.writePoly_rng (s : State) (p : BufIdx) (ws : List Nat) :
    (s.writePoly p ws).rng = s.rng := rfl
@[simp] theorem State.writePoly_pending (s : State) (p : BufIdx) (ws : List Nat) :
    (s.writePoly p ws).pending = s.pending := rfl
@[simp] theorem State.writePoly_bus (s : State) (p : BufIdx) (ws : List Nat) :
    (s.writePoly p ws).bus = s.bus := rfl
@[simp] theorem State.writePoly_tick (s : State) (p : BufIdx) (ws : List Nat) :
    (s.writePoly p ws).tick = s.tick := rfl

/-! ## forgetPoly -/

@[simp] theorem State.forgetPoly_mem (s : State) (p : BufIdx) :
    (s.forgetPoly p).mem = s.mem.forget (bufBase p.toNat) 2048 := rfl
@[simp] theorem State.forgetPoly_seed (s : State) (p : BufIdx) :
    (s.forgetPoly p).seed = s.seed := rfl
@[simp] theorem State.forgetPoly_key (s : State) (p : BufIdx) :
    (s.forgetPoly p).key = s.key := rfl
@[simp] theorem State.forgetPoly_sopa (s : State) (p : BufIdx) :
    (s.forgetPoly p).sopa = s.sopa := rfl
@[simp] theorem State.forgetPoly_sres (s : State) (p : BufIdx) :
    (s.forgetPoly p).sres = s.sres := rfl
@[simp] theorem State.forgetPoly_ie (s : State) (p : BufIdx) :
    (s.forgetPoly p).ie = s.ie := rfl
@[simp] theorem State.forgetPoly_status (s : State) (p : BufIdx) :
    (s.forgetPoly p).status = s.status := rfl
@[simp] theorem State.forgetPoly_eng (s : State) (p : BufIdx) :
    (s.forgetPoly p).eng = s.eng := rfl
@[simp] theorem State.forgetPoly_cfg (s : State) (p : BufIdx) :
    (s.forgetPoly p).cfg = s.cfg := rfl
@[simp] theorem State.forgetPoly_rng (s : State) (p : BufIdx) :
    (s.forgetPoly p).rng = s.rng := rfl
@[simp] theorem State.forgetPoly_pending (s : State) (p : BufIdx) :
    (s.forgetPoly p).pending = s.pending := rfl
@[simp] theorem State.forgetPoly_bus (s : State) (p : BufIdx) :
    (s.forgetPoly p).bus = s.bus := rfl
@[simp] theorem State.forgetPoly_tick (s : State) (p : BufIdx) :
    (s.forgetPoly p).tick = s.tick := rfl

/-! ## writePair -/

@[simp] theorem State.writePair_mem (s : State) (p w : Nat) (v : Word32) :
    (s.writePair p w v).mem = s.mem.store (bufBase p + 4 * w) (bytesOfWord32 v) := rfl
@[simp] theorem State.writePair_seed (s : State) (p w : Nat) (v : Word32) :
    (s.writePair p w v).seed = s.seed := rfl
@[simp] theorem State.writePair_key (s : State) (p w : Nat) (v : Word32) :
    (s.writePair p w v).key = s.key := rfl
@[simp] theorem State.writePair_sopa (s : State) (p w : Nat) (v : Word32) :
    (s.writePair p w v).sopa = s.sopa := rfl
@[simp] theorem State.writePair_sres (s : State) (p w : Nat) (v : Word32) :
    (s.writePair p w v).sres = s.sres := rfl
@[simp] theorem State.writePair_ie (s : State) (p w : Nat) (v : Word32) :
    (s.writePair p w v).ie = s.ie := rfl
@[simp] theorem State.writePair_status (s : State) (p w : Nat) (v : Word32) :
    (s.writePair p w v).status = s.status := rfl
@[simp] theorem State.writePair_eng (s : State) (p w : Nat) (v : Word32) :
    (s.writePair p w v).eng = s.eng := rfl
@[simp] theorem State.writePair_cfg (s : State) (p w : Nat) (v : Word32) :
    (s.writePair p w v).cfg = s.cfg := rfl
@[simp] theorem State.writePair_rng (s : State) (p w : Nat) (v : Word32) :
    (s.writePair p w v).rng = s.rng := rfl
@[simp] theorem State.writePair_pending (s : State) (p w : Nat) (v : Word32) :
    (s.writePair p w v).pending = s.pending := rfl
@[simp] theorem State.writePair_bus (s : State) (p w : Nat) (v : Word32) :
    (s.writePair p w v).bus = s.bus := rfl
@[simp] theorem State.writePair_tick (s : State) (p w : Nat) (v : Word32) :
    (s.writePair p w v).tick = s.tick := rfl

/-! ## finish -/

@[simp] theorem State.finish_mem (s : State) :
    (s.finish).mem = s.mem := rfl
@[simp] theorem State.finish_seed (s : State) :
    (s.finish).seed = s.seed := rfl
@[simp] theorem State.finish_key (s : State) :
    (s.finish).key = s.key := rfl
@[simp] theorem State.finish_sopa (s : State) :
    (s.finish).sopa = s.sopa := rfl
@[simp] theorem State.finish_sres (s : State) :
    (s.finish).sres = s.sres := rfl
@[simp] theorem State.finish_ie (s : State) :
    (s.finish).ie = s.ie := rfl
@[simp] theorem State.finish_status (s : State) :
    (s.finish).status = s.status.completed := rfl
@[simp] theorem State.finish_eng (s : State) :
    (s.finish).eng = .idle := rfl
@[simp] theorem State.finish_cfg (s : State) :
    (s.finish).cfg = s.cfg := rfl
@[simp] theorem State.finish_rng (s : State) :
    (s.finish).rng = s.rng := rfl
@[simp] theorem State.finish_pending (s : State) :
    (s.finish).pending = s.pending := rfl
@[simp] theorem State.finish_bus (s : State) :
    (s.finish).bus = s.bus := rfl
@[simp] theorem State.finish_tick (s : State) :
    (s.finish).tick = s.tick := rfl

/-! ## raise -/

@[simp] theorem State.raise_mem (s : State) (e : CmdError) :
    (s.raise e).mem = s.mem := rfl
@[simp] theorem State.raise_seed (s : State) (e : CmdError) :
    (s.raise e).seed = s.seed := rfl
@[simp] theorem State.raise_key (s : State) (e : CmdError) :
    (s.raise e).key = s.key := rfl
@[simp] theorem State.raise_sopa (s : State) (e : CmdError) :
    (s.raise e).sopa = s.sopa := rfl
@[simp] theorem State.raise_sres (s : State) (e : CmdError) :
    (s.raise e).sres = s.sres := rfl
@[simp] theorem State.raise_ie (s : State) (e : CmdError) :
    (s.raise e).ie = s.ie := rfl
@[simp] theorem State.raise_status (s : State) (e : CmdError) :
    (s.raise e).status = s.status.failed e := rfl
@[simp] theorem State.raise_eng (s : State) (e : CmdError) :
    (s.raise e).eng = .idle := rfl
@[simp] theorem State.raise_cfg (s : State) (e : CmdError) :
    (s.raise e).cfg = s.cfg := rfl
@[simp] theorem State.raise_rng (s : State) (e : CmdError) :
    (s.raise e).rng = s.rng := rfl
@[simp] theorem State.raise_pending (s : State) (e : CmdError) :
    (s.raise e).pending = s.pending := rfl
@[simp] theorem State.raise_bus (s : State) (e : CmdError) :
    (s.raise e).bus = s.bus := rfl
@[simp] theorem State.raise_tick (s : State) (e : CmdError) :
    (s.raise e).tick = s.tick := rfl

/-! ## acknowledge -/

@[simp] theorem State.acknowledge_mem (s : State) (v : Word32) :
    (s.acknowledge v).mem = s.mem := rfl
@[simp] theorem State.acknowledge_seed (s : State) (v : Word32) :
    (s.acknowledge v).seed = s.seed := rfl
@[simp] theorem State.acknowledge_key (s : State) (v : Word32) :
    (s.acknowledge v).key = s.key := rfl
@[simp] theorem State.acknowledge_sopa (s : State) (v : Word32) :
    (s.acknowledge v).sopa = s.sopa := rfl
@[simp] theorem State.acknowledge_sres (s : State) (v : Word32) :
    (s.acknowledge v).sres = s.sres := rfl
@[simp] theorem State.acknowledge_ie (s : State) (v : Word32) :
    (s.acknowledge v).ie = s.ie := rfl
@[simp] theorem State.acknowledge_status (s : State) (v : Word32) :
    (s.acknowledge v).status = s.status.writeOneToClear v := rfl
@[simp] theorem State.acknowledge_eng (s : State) (v : Word32) :
    (s.acknowledge v).eng = s.eng := rfl
@[simp] theorem State.acknowledge_cfg (s : State) (v : Word32) :
    (s.acknowledge v).cfg = s.cfg := rfl
@[simp] theorem State.acknowledge_rng (s : State) (v : Word32) :
    (s.acknowledge v).rng = s.rng := rfl
@[simp] theorem State.acknowledge_pending (s : State) (v : Word32) :
    (s.acknowledge v).pending = s.pending := rfl
@[simp] theorem State.acknowledge_bus (s : State) (v : Word32) :
    (s.acknowledge v).bus = s.bus := rfl
@[simp] theorem State.acknowledge_tick (s : State) (v : Word32) :
    (s.acknowledge v).tick = s.tick := rfl

/-! ## keepRunning -/

@[simp] theorem State.keepRunning_mem (s : State) (i : Instr) (n : Nat) :
    (s.keepRunning i n).mem = s.mem := rfl
@[simp] theorem State.keepRunning_seed (s : State) (i : Instr) (n : Nat) :
    (s.keepRunning i n).seed = s.seed := rfl
@[simp] theorem State.keepRunning_key (s : State) (i : Instr) (n : Nat) :
    (s.keepRunning i n).key = s.key := rfl
@[simp] theorem State.keepRunning_sopa (s : State) (i : Instr) (n : Nat) :
    (s.keepRunning i n).sopa = s.sopa := rfl
@[simp] theorem State.keepRunning_sres (s : State) (i : Instr) (n : Nat) :
    (s.keepRunning i n).sres = s.sres := rfl
@[simp] theorem State.keepRunning_ie (s : State) (i : Instr) (n : Nat) :
    (s.keepRunning i n).ie = s.ie := rfl
@[simp] theorem State.keepRunning_status (s : State) (i : Instr) (n : Nat) :
    (s.keepRunning i n).status = { s.status with busy := true } := rfl
@[simp] theorem State.keepRunning_eng (s : State) (i : Instr) (n : Nat) :
    (s.keepRunning i n).eng = .run (encode i) n := rfl
@[simp] theorem State.keepRunning_cfg (s : State) (i : Instr) (n : Nat) :
    (s.keepRunning i n).cfg = s.cfg := rfl
@[simp] theorem State.keepRunning_rng (s : State) (i : Instr) (n : Nat) :
    (s.keepRunning i n).rng = s.rng := rfl
@[simp] theorem State.keepRunning_pending (s : State) (i : Instr) (n : Nat) :
    (s.keepRunning i n).pending = s.pending := rfl
@[simp] theorem State.keepRunning_bus (s : State) (i : Instr) (n : Nat) :
    (s.keepRunning i n).bus = s.bus := rfl
@[simp] theorem State.keepRunning_tick (s : State) (i : Instr) (n : Nat) :
    (s.keepRunning i n).tick = s.tick := rfl

/-! ## finishPoly -/

@[simp] theorem State.finishPoly_mem (s : State) (rd : BufIdx) (ws : List Nat) :
    (s.finishPoly rd ws).mem = s.mem.store (bufBase rd.toNat) (bytesOfWords ws) := rfl
@[simp] theorem State.finishPoly_seed (s : State) (rd : BufIdx) (ws : List Nat) :
    (s.finishPoly rd ws).seed = s.seed := rfl
@[simp] theorem State.finishPoly_key (s : State) (rd : BufIdx) (ws : List Nat) :
    (s.finishPoly rd ws).key = s.key := rfl
@[simp] theorem State.finishPoly_sopa (s : State) (rd : BufIdx) (ws : List Nat) :
    (s.finishPoly rd ws).sopa = s.sopa := rfl
@[simp] theorem State.finishPoly_sres (s : State) (rd : BufIdx) (ws : List Nat) :
    (s.finishPoly rd ws).sres = s.sres := rfl
@[simp] theorem State.finishPoly_ie (s : State) (rd : BufIdx) (ws : List Nat) :
    (s.finishPoly rd ws).ie = s.ie := rfl
@[simp] theorem State.finishPoly_status (s : State) (rd : BufIdx) (ws : List Nat) :
    (s.finishPoly rd ws).status = s.status.completed := rfl
@[simp] theorem State.finishPoly_eng (s : State) (rd : BufIdx) (ws : List Nat) :
    (s.finishPoly rd ws).eng = .idle := rfl
@[simp] theorem State.finishPoly_cfg (s : State) (rd : BufIdx) (ws : List Nat) :
    (s.finishPoly rd ws).cfg = s.cfg := rfl
@[simp] theorem State.finishPoly_rng (s : State) (rd : BufIdx) (ws : List Nat) :
    (s.finishPoly rd ws).rng = s.rng := rfl
@[simp] theorem State.finishPoly_pending (s : State) (rd : BufIdx) (ws : List Nat) :
    (s.finishPoly rd ws).pending = s.pending := rfl
@[simp] theorem State.finishPoly_bus (s : State) (rd : BufIdx) (ws : List Nat) :
    (s.finishPoly rd ws).bus = s.bus := rfl
@[simp] theorem State.finishPoly_tick (s : State) (rd : BufIdx) (ws : List Nat) :
    (s.finishPoly rd ws).tick = s.tick := rfl

/-! ## finishScalar -/

@[simp] theorem State.finishScalar_mem (s : State) (r : Nat) :
    (s.finishScalar r).mem = s.mem := rfl
@[simp] theorem State.finishScalar_seed (s : State) (r : Nat) :
    (s.finishScalar r).seed = s.seed := rfl
@[simp] theorem State.finishScalar_key (s : State) (r : Nat) :
    (s.finishScalar r).key = s.key := rfl
@[simp] theorem State.finishScalar_sopa (s : State) (r : Nat) :
    (s.finishScalar r).sopa = s.sopa := rfl
@[simp] theorem State.finishScalar_sres (s : State) (r : Nat) :
    (s.finishScalar r).sres = BitVec.ofNat 16 r := rfl
@[simp] theorem State.finishScalar_ie (s : State) (r : Nat) :
    (s.finishScalar r).ie = s.ie := rfl
@[simp] theorem State.finishScalar_status (s : State) (r : Nat) :
    (s.finishScalar r).status = s.status.completed := rfl
@[simp] theorem State.finishScalar_eng (s : State) (r : Nat) :
    (s.finishScalar r).eng = .idle := rfl
@[simp] theorem State.finishScalar_cfg (s : State) (r : Nat) :
    (s.finishScalar r).cfg = s.cfg := rfl
@[simp] theorem State.finishScalar_rng (s : State) (r : Nat) :
    (s.finishScalar r).rng = s.rng := rfl
@[simp] theorem State.finishScalar_pending (s : State) (r : Nat) :
    (s.finishScalar r).pending = s.pending := rfl
@[simp] theorem State.finishScalar_bus (s : State) (r : Nat) :
    (s.finishScalar r).bus = s.bus := rfl
@[simp] theorem State.finishScalar_tick (s : State) (r : Nat) :
    (s.finishScalar r).tick = s.tick := rfl

/-! ## finishKey -/

@[simp] theorem State.finishKey_mem (s : State) (k : Vector Word32 8) :
    (s.finishKey k).mem = s.mem := rfl
@[simp] theorem State.finishKey_seed (s : State) (k : Vector Word32 8) :
    (s.finishKey k).seed = s.seed := rfl
@[simp] theorem State.finishKey_key (s : State) (k : Vector Word32 8) :
    (s.finishKey k).key = k := rfl
@[simp] theorem State.finishKey_sopa (s : State) (k : Vector Word32 8) :
    (s.finishKey k).sopa = s.sopa := rfl
@[simp] theorem State.finishKey_sres (s : State) (k : Vector Word32 8) :
    (s.finishKey k).sres = s.sres := rfl
@[simp] theorem State.finishKey_ie (s : State) (k : Vector Word32 8) :
    (s.finishKey k).ie = s.ie := rfl
@[simp] theorem State.finishKey_status (s : State) (k : Vector Word32 8) :
    (s.finishKey k).status = s.status.completed := rfl
@[simp] theorem State.finishKey_eng (s : State) (k : Vector Word32 8) :
    (s.finishKey k).eng = .idle := rfl
@[simp] theorem State.finishKey_cfg (s : State) (k : Vector Word32 8) :
    (s.finishKey k).cfg = s.cfg := rfl
@[simp] theorem State.finishKey_rng (s : State) (k : Vector Word32 8) :
    (s.finishKey k).rng = s.rng := rfl
@[simp] theorem State.finishKey_pending (s : State) (k : Vector Word32 8) :
    (s.finishKey k).pending = s.pending := rfl
@[simp] theorem State.finishKey_bus (s : State) (k : Vector Word32 8) :
    (s.finishKey k).bus = s.bus := rfl
@[simp] theorem State.finishKey_tick (s : State) (k : Vector Word32 8) :
    (s.finishKey k).tick = s.tick := rfl

/-! ## begin -/

@[simp] theorem State.begin_mem (s : State) :
    (s.begin).mem = s.mem := rfl
@[simp] theorem State.begin_seed (s : State) :
    (s.begin).seed = s.seed := rfl
@[simp] theorem State.begin_key (s : State) :
    (s.begin).key = s.key := rfl
@[simp] theorem State.begin_sopa (s : State) :
    (s.begin).sopa = s.sopa := rfl
@[simp] theorem State.begin_sres (s : State) :
    (s.begin).sres = s.sres := rfl
@[simp] theorem State.begin_ie (s : State) :
    (s.begin).ie = s.ie := rfl
@[simp] theorem State.begin_status (s : State) :
    (s.begin).status = s.status := rfl
@[simp] theorem State.begin_eng (s : State) :
    (s.begin).eng = s.eng := rfl
@[simp] theorem State.begin_cfg (s : State) :
    (s.begin).cfg = s.cfg := rfl
@[simp] theorem State.begin_rng (s : State) :
    (s.begin).rng = s.rng := rfl
@[simp] theorem State.begin_pending (s : State) :
    (s.begin).pending = s.pending.tail := rfl
@[simp] theorem State.begin_bus (s : State) :
    (s.begin).bus = .quiet := rfl
@[simp] theorem State.begin_tick (s : State) :
    (s.begin).tick = s.tick + 1 := rfl

/-! ## latch -/

@[simp] theorem State.latch_mem (s : State) (w : Word32) :
    (s.latch w).mem = s.mem := rfl
@[simp] theorem State.latch_seed (s : State) (w : Word32) :
    (s.latch w).seed = s.seed := rfl
@[simp] theorem State.latch_key (s : State) (w : Word32) :
    (s.latch w).key = s.key := rfl
@[simp] theorem State.latch_sopa (s : State) (w : Word32) :
    (s.latch w).sopa = s.sopa := rfl
@[simp] theorem State.latch_sres (s : State) (w : Word32) :
    (s.latch w).sres = s.sres := rfl
@[simp] theorem State.latch_ie (s : State) (w : Word32) :
    (s.latch w).ie = s.ie := rfl
@[simp] theorem State.latch_status (s : State) (w : Word32) :
    (s.latch w).status = s.status.started := rfl
@[simp] theorem State.latch_eng (s : State) (w : Word32) :
    (s.latch w).eng = .run w 0 := rfl
@[simp] theorem State.latch_cfg (s : State) (w : Word32) :
    (s.latch w).cfg = s.cfg := rfl
@[simp] theorem State.latch_rng (s : State) (w : Word32) :
    (s.latch w).rng = s.rng := rfl
@[simp] theorem State.latch_pending (s : State) (w : Word32) :
    (s.latch w).pending = .complete :: s.pending := rfl
@[simp] theorem State.latch_bus (s : State) (w : Word32) :
    (s.latch w).bus = s.bus := rfl
@[simp] theorem State.latch_tick (s : State) (w : Word32) :
    (s.latch w).tick = s.tick := rfl

/-! ## Status.cleared -/

@[simp] theorem Status.cleared_busy (t : Status) :
    (t.cleared).busy = t.busy := rfl
@[simp] theorem Status.cleared_done (t : Status) :
    (t.cleared).done = false := rfl
@[simp] theorem Status.cleared_err (t : Status) :
    (t.cleared).err = false := rfl
@[simp] theorem Status.cleared_cmdovf (t : Status) :
    (t.cleared).cmdovf = t.cmdovf := rfl
@[simp] theorem Status.cleared_errcode (t : Status) :
    (t.cleared).errcode = 0 := rfl

/-! ## Status.started -/

@[simp] theorem Status.started_busy (t : Status) :
    (t.started).busy = true := rfl
@[simp] theorem Status.started_done (t : Status) :
    (t.started).done = false := rfl
@[simp] theorem Status.started_err (t : Status) :
    (t.started).err = false := rfl
@[simp] theorem Status.started_cmdovf (t : Status) :
    (t.started).cmdovf = t.cmdovf := rfl
@[simp] theorem Status.started_errcode (t : Status) :
    (t.started).errcode = 0 := rfl

/-! ## Status.completed -/

@[simp] theorem Status.completed_busy (t : Status) :
    (t.completed).busy = false := rfl
@[simp] theorem Status.completed_done (t : Status) :
    (t.completed).done = true := rfl
@[simp] theorem Status.completed_err (t : Status) :
    (t.completed).err = t.err := rfl
@[simp] theorem Status.completed_cmdovf (t : Status) :
    (t.completed).cmdovf = t.cmdovf := rfl
@[simp] theorem Status.completed_errcode (t : Status) :
    (t.completed).errcode = t.errcode := rfl

/-! ## Status.failed -/

@[simp] theorem Status.failed_busy (t : Status) (e : CmdError) :
    (t.failed e).busy = false := rfl
@[simp] theorem Status.failed_done (t : Status) (e : CmdError) :
    (t.failed e).done = true := rfl
@[simp] theorem Status.failed_err (t : Status) (e : CmdError) :
    (t.failed e).err = true := rfl
@[simp] theorem Status.failed_cmdovf (t : Status) (e : CmdError) :
    (t.failed e).cmdovf = t.cmdovf := rfl
@[simp] theorem Status.failed_errcode (t : Status) (e : CmdError) :
    (t.failed e).errcode = e.code := rfl

/-! ## Status.overrun -/

@[simp] theorem Status.overrun_busy (t : Status) :
    (t.overrun).busy = t.busy := rfl
@[simp] theorem Status.overrun_done (t : Status) :
    (t.overrun).done = t.done := rfl
@[simp] theorem Status.overrun_err (t : Status) :
    (t.overrun).err = t.err := rfl
@[simp] theorem Status.overrun_cmdovf (t : Status) :
    (t.overrun).cmdovf = true := rfl
@[simp] theorem Status.overrun_errcode (t : Status) :
    (t.overrun).errcode = t.errcode := rfl

/-! ## Status.writeOneToClear -/

@[simp] theorem Status.writeOneToClear_busy (t : Status) (v : Word32) :
    (t.writeOneToClear v).busy = t.busy := rfl
@[simp] theorem Status.writeOneToClear_done (t : Status) (v : Word32) :
    (t.writeOneToClear v).done = (t.done && !v.getLsbD 1) := rfl
@[simp] theorem Status.writeOneToClear_err (t : Status) (v : Word32) :
    (t.writeOneToClear v).err = (t.err && !v.getLsbD 2) := rfl
@[simp] theorem Status.writeOneToClear_cmdovf (t : Status) (v : Word32) :
    (t.writeOneToClear v).cmdovf = (t.cmdovf && !v.getLsbD 3) := rfl
@[simp] theorem Status.writeOneToClear_errcode (t : Status) (v : Word32) :
    (t.writeOneToClear v).errcode = if v.getLsbD 2 then 0 else t.errcode := rfl

end Sys2Proof.Machine
end

