-- ==== Sys2Proof/Laws/Step.lean ====
section
/-! SUPPORT. What a step can do, said once. -/
namespace Sys2Proof.Machine

/-- Everything the engine's turn can do. -/
theorem State.engineTurn_cases {s t : State} (h : s.engineTurn = .next t) :
    (s.eng = .idle ∧ t = s) ∨
    (∃ w n i, s.eng = .run w n ∧ decodeWord w = .ok i ∧ exec i s = .next t) ∨
    (∃ w n e, s.eng = .run w n ∧ decodeWord w = .error e ∧ t = s.raise e) := by
  unfold State.engineTurn at h
  split at h
  · rename_i he
    exact .inl ⟨he, by injection h with h; exact h.symm⟩
  · rename_i w n he
    split at h
    · rename_i i hi
      exact .inr (.inl ⟨w, n, i, he, hi, h⟩)
    · rename_i e hi
      exact .inr (.inr ⟨w, n, e, he, hi, by injection h with h; exact h.symm⟩)

/-- A poll of WAIT reads STATUS and changes only the bus reply and, where it read BUSY = 1, what is pending. -/
theorem State.poll_eq (latency : Nat) (s : State) :
    s.poll latency = { s with bus := .data s.status.word
                              pending := if s.status.busy then pollAgain latency ++ s.pending else s.pending } := by
  have h : s.status.word.getLsbD 0 = s.status.busy := by
    rcases s with ⟨_, _, _, _, _, _, ⟨b, d, e, c, k⟩, _⟩
    cases b <;> cases d <;> cases e <;> cases c <;> simp [Status.word, bitAt]
  have h' : s.readReg 0x014 = s.status.word := rfl
  rw [State.poll, h', h]
  cases s.status.busy <;> rfl

/-- Everything a step can do: the next pending event, or the engine's turn where none is pending. -/
theorem step_cases {s t : State} (h : step s = .next t) :
    (∃ a, s.nextEvent = .read a ∧ t = s.begin.hostRead a) ∨
    (∃ a v, s.nextEvent = .write a v ∧ t = s.begin.hostWrite a v) ∨
    (s.nextEvent = .complete ∧ s.begin.engineTurn = .next t) ∨
    (∃ latency, s.nextEvent = .wait latency ∧ t = s.begin.poll latency) ∨
    (s.nextEvent = .hardReset ∧ t = s.begin.hardReset) := by
  unfold step at h
  cases he : s.nextEvent with
  | read a =>
    rw [he] at h
    exact .inl ⟨a, rfl, by injection h with h; exact h.symm⟩
  | write a v =>
    rw [he] at h
    exact .inr (.inl ⟨a, v, rfl, by injection h with h; exact h.symm⟩)
  | complete =>
    rw [he] at h
    exact .inr (.inr (.inl ⟨rfl, h⟩))
  | wait latency =>
    rw [he] at h
    exact .inr (.inr (.inr (.inl ⟨latency, rfl, by injection h with h; exact h.symm⟩)))
  | hardReset =>
    rw [he] at h
    exact .inr (.inr (.inr (.inr ⟨rfl, by injection h with h; exact h.symm⟩)))

end Sys2Proof.Machine
end

