-- ==== Sys2Proof/Tests/Slice0.lean ====
section
/-! SUPPORT. The model's own tests, their expected results taken from the worked examples and vectors of
spec/95_test_vectors.md, and for each statement with hypotheses a concrete state and operands that meet them. -/
-- One theorem at a time: the kernel evaluations below would otherwise be held in memory together.
set_option Elab.async false
namespace Sys2Proof.Tests
open Sys2Proof Sys2Proof.Machine

/-! ## Helpers -/

/-- The state after reset with buffers 0 and 1 written by the host. -/
def loaded (p0 p1 : List Nat) : State := (State.reset.writePoly 0 p0).writePoly 1 p1

/-- A buffer with every word c. -/
def all (c : Nat) : List Nat := List.replicate 1024 c

/-- A buffer with word 0 = c and the others 0. -/
def delta (c : Nat) : List Nat := c :: List.replicate 1023 0

/-- The state after reset, with the word w latched in ENG. -/
def running (w : Word32) : State :=
  { State.reset with eng := .run w 0, status := ⟨true, false, false, false, 0⟩ }

/-- The state a command leaves, or the one it started from where it gives none. -/
def after (i : Instr) (s : State) : State :=
  match exec i s with
  | .next t => t
  | .fault _ => s
  | .refused _ => s

/-- The state after reset with an XOF stream that repeats some bytes, the same for every seed. -/
def withXof (head cycle : List Byte) : State :=
  { State.reset with cfg := { Params.standard with xof := .playback head cycle } }

/-- The state after reset with answers waiting at the RNG port. -/
def withRng (answers : List (Option Byte)) : State :=
  { State.reset with rng := ⟨answers, 0⟩ }

/-! ## WellFormed: a term that each check refuses (R301: NPOLY = 8) -/

theorem test_wf_refuses_rd : (Instr.ntt 9 0).wf 8 = false := by decide
theorem test_wf_refuses_rs1 : (Instr.canon 0 8).wf 8 = false := by decide
theorem test_wf_refuses_rs2 : (Instr.padd 0 1 15).wf 8 = false := by decide
theorem test_wf_accepts_last_buffer : (Instr.pmul 7 7 7).wf 8 = true := by decide

/-! ## Decoding: words written out from the table of R305, opcode, RD, RS1, RS2, RSVD -/

theorem test_decode_nop : decodeWord 0b00000000_0000_0000_0000_000000000000 = .ok .nop := by decide
theorem test_decode_smont : decodeWord 0b00000001_0000_0000_0000_000000000000 = .ok .smont := by decide
theorem test_decode_sbarr : decodeWord 0b00000010_0000_0000_0000_000000000000 = .ok .sbarr := by decide
theorem test_decode_ntt : decodeWord 0b00010000_0001_0010_0000_000000000000 = .ok (.ntt 1 2) := by decide
theorem test_decode_intt : decodeWord 0b00010001_0010_0001_0000_000000000000 = .ok (.intt 2 1) := by decide
theorem test_decode_pmul : decodeWord 0b00100000_0010_0000_0001_000000000000 = .ok (.pmul 2 0 1) := by decide
theorem test_decode_padd : decodeWord 0b00100001_0011_0101_0010_000000000000 = .ok (.padd 3 5 2) := by decide
theorem test_decode_canon : decodeWord 0b00100010_0101_0110_0000_000000000000 = .ok (.canon 5 6) := by decide
theorem test_decode_uniform : decodeWord 0b00110000_0111_0000_0000_000000000000 = .ok (.uniform 7) := by decide
theorem test_decode_noise : decodeWord 0b00110001_0011_0000_0000_000000000000 = .ok (.noise 3) := by decide
theorem test_decode_helprec : decodeWord 0b01000000_0010_0110_0000_000000000000 = .ok (.helprec 2 6) := by decide
theorem test_decode_rec : decodeWord 0b01000001_0000_0011_0100_000000000000 = .ok (.reconcile 3 4) := by decide

/-- V-DEC: the refused words. -/
theorem test_decode_refused :
    [0x01000001, 0x01100000, 0x10100001, 0x10101000, 0x10900001, 0x30710000, 0x41134000].map (decode 8)
      = List.replicate 7 (.error .resfield) ∧
    [0x03000000, 0xFF000000, 0x42034000].map (decode 8) = List.replicate 3 (.error .illegalOpcode) ∧
    [0x10900000, 0x20209000, 0x30800000].map (decode 8) = List.replicate 3 (.error .badIndex) := by decide

theorem test_decodeTableWord : decodeTableWord 32 0x41034000 = some (.reconcile 3 4) := by decide

/-! ## One command each -/

/-- R910's example. -/
theorem test_nop : (after .nop State.reset).status = ⟨false, true, false, false, 0⟩ := by decide

/-- S1 of the source; the last row of V-RED-1. -/
theorem test_smont : (after .smont { State.reset with sopa := 3 }).sres = 1728 ∧
    (after .smont { State.reset with sopa := 0xFFFFFFFF }).sres = 28097 := by decide

/-- R411: bits 31:16 are ignored; 13108 gives 819. -/
theorem test_sbarr : (after .sbarr { State.reset with sopa := 0x00010005 }).sres = 5 ∧
    (after .sbarr { State.reset with sopa := 13108 }).sres = 819 := by decide

/-- V-NTT-2: the transform of the polynomial 1. -/
theorem test_ntt : ((after (.ntt 2 0) (loaded (delta 1) [])).poly 2).take 2 = [1, 12290] := by decide +kernel

/-- V-NTT-9: INTT of all 65535 has word 0 = 4094. -/
theorem test_intt : ((after (.intt 0 0) (loaded (all 65535) [])).poly 0).take 1 = [4094] := by decide +kernel

/-- V-PA: 12288 and 12288. -/
theorem test_pmul : ((after (.pmul 1 0 1) (loaded (all 12288) (all 12288))).poly 1).take 1 = [12290] := by
  decide +kernel

/-- V-PA: the wraps. -/
theorem test_padd : paddLane 40000 30000 = 4464 ∧ paddLane 65535 1 = 0 ∧ paddLane 12288 12288 = 12287 := by decide

/-- V-RED-2: 65535. -/
theorem test_canon : ((after (.canon 3 0) (loaded (all 65535) [])).poly 3).take 1 = [4090] := by decide +kernel

/-- The words of V-UNI-2. -/
def uniWords : List Byte :=
  [0x00, 0x00, 0x00, 0x30, 0x01, 0x30, 0xFF, 0x3F, 0x05, 0x40, 0xFF, 0xFF, 0x23, 0xC1]

/-- V-UNI-2, MASK14. -/
theorem test_uniform : ((after (.uniform 0) (withXof uniWords [0x01, 0x00])).poly 0).take 6
    = [0, 12288, 5, 291, 1, 1] := by decide +kernel

/-- V-UNI-3: the first bytes of the default XOF for the seed of 32 bytes 5. -/
theorem test_shake128 : shake128 (List.replicate 32 5) 16
    = [0x01, 0x80, 0x50, 0x55, 0xC2, 0x04, 0x75, 0x07, 0xFB, 0x31, 0x63, 0x48, 0x0A, 0x07, 0x91, 0x02] := by
  decide +kernel

/-- R710's example. -/
theorem test_noisec : noisec 0x12 0x34 0x56 0x78 = 12286 := by decide

/-- R711: a FAIL as the third answer ends NOISE with ENTROPY_FAIL, and three answers are taken. -/
theorem test_noise_fails : (after (.noise 3) (withRng [some 0x11, some 0x11, none])).status
      = ⟨false, true, true, false, 4⟩ ∧
    (after (.noise 3) (withRng [some 0x11, some 0x11, none])).rng = ⟨[], 3⟩ := by decide

/-- V-REC-4, and the last row of V-REC-2. -/
theorem test_helprec : helpGroup ⟨3072, 3072, 3072, 3072⟩ 0 = ⟨0, 0, 0, 2⟩ ∧
    helpGroup ⟨100, 200, 12000, 6000⟩ 1 = ⟨2, 2, 2, 0⟩ := by decide

/-- V-REC-5. -/
theorem test_rec : recBit false ⟨0, 0, 0, 0⟩ ⟨0, 0, 0, 0⟩ = true ∧
    recBit false ⟨6144, 6144, 6144, 6144⟩ ⟨0, 0, 0, 0⟩ = false ∧
    recBit false ⟨6144, 6144, 6144, 6144⟩ ⟨1, 1, 1, 2⟩ = true := by decide

/-- V-REC-6: KEY0. -/
theorem test_rec_key : (after (.reconcile 0 1) (loaded (all 0) (all 0))).key.toList.take 1 = [0xFFFFFFFF] := by
  decide +kernel

/-- The assembler forms of R305. -/
theorem test_asm : asm (.pmul 12 0 1) = "PMUL p12, p0, p1" ∧ asm (.reconcile 3 4) = "REC p3, p4" := by decide

/-! ## The bus -/

/-- The state one step leaves, or the one it started from where it gives none. -/
def stepped (s : State) : State :=
  match step s with
  | .next t => t
  | .fault _ => s
  | .refused _ => s

/-- P4 step 1: an unassigned opcode. -/
theorem test_issue_illegal :
    (stepped { State.reset with pending := hostW 0x018 0x03000000 }).status.word = 0x00000016 := by decide

/-- P4 steps 5 and 6: a CMD write while BUSY. -/
theorem test_issue_busy :
    (stepped { running 0x10100000 with pending := hostW 0x018 0 }).status.word = 0x00000009 := by decide

/-- R306: a poll that reads BUSY = 1 does not end WAIT, and one that reads 0 does. -/
theorem test_wait :
    (stepped { running 0 with pending := wait 1 }).bus = .data 1 ∧
    (stepped { running 0 with pending := wait 1 }).pending = [.wait 0] ∧
    (stepped { running 0 with pending := wait 0 }).pending = [.complete, .wait 0] ∧
    (stepped { State.reset with pending := wait 1 }).pending = [] := by decide

/-- R305, R306: the line `SMONT`, with a poll that reads BUSY = 1 on the way. -/
theorem test_command :
    match Host.Core.run Sys2Proof.core 4 { State.reset with sopa := 3, pending := command .smont 0 } with
    | .next t => t.sres = 1728 ∧ t.status.word = 2 ∧ t.bus = .data 2 ∧ t.pending = []
    | .fault _ => False
    | .refused _ => False := by
  refine ⟨?_, ?_, ?_, ?_⟩ <;> decide

/-- V-RST: CFG0. -/
theorem test_read_cfg0 :
    (stepped { State.reset with pending := hostR 0x004 }).bus = .data 0x30010A08 := by decide

/-- V-RST: CTRL = 3 during NTT p1, p0 leaves STATUS = 0 and CTRL = 0. -/
theorem test_soft_reset :
    (stepped { running 0x10100000 with pending := hostW 0x010 3 }).status.word = 0 ∧
    (stepped { running 0x10100000 with pending := hostW 0x010 3 }).ie = false := by decide

/-- The step that `withFetchWord` prepares runs the command. -/
theorem test_fetch_word :
    (stepped ({ State.reset with sopa := 3 }.withFetchWord 32 0x01000000)).sres = 1728 := by decide

/-! ## Witnesses: for each statement with hypotheses, a state and operands that meet them, clause by clause -/

theorem witness_DecodeOfEncode : (Instr.pmul 7 7 7).wf 8 = true := by decide

theorem witness_EncodeOfDecode : decodeWord 0x41034000 = .ok (.reconcile 3 4) := by decide

theorem witness_OpcodeMapDecidesEveryWord :
    ∃ r ∈ opcodeTable, (0x41034000 : Word32) &&& r.mask = r.pattern := by decide

theorem witness_DecodeReportsTheOneError :
    fieldOpc 0x42034000 ∉ ([0x00, 0x01, 0x02, 0x10, 0x11, 0x20, 0x21, 0x22, 0x30, 0x31, 0x40, 0x41] : List (BitVec 8)) ∧
    (∃ r ∈ opcodeTable, fieldOpc 0x10900001 = fieldOpc r.pattern ∧ (0x10900001 : Word32) &&& r.mask ≠ r.pattern) ∧
    (∃ r ∈ opcodeTable, (0x30800000 : Word32) &&& r.mask = r.pattern ∧
      ∃ f ∈ (r.build (fieldRd 0x30800000) (fieldRs1 0x30800000) (fieldRs2 0x30800000)).usedFields, 8 ≤ f.toNat) ∧
    (∃ r ∈ opcodeTable, (0x30700000 : Word32) &&& r.mask = r.pattern ∧
      ∀ f ∈ (r.build (fieldRd 0x30700000) (fieldRs1 0x30700000) (fieldRs2 0x30700000)).usedFields, f.toNat < 8) ∧
    ∃ t, exec (.noise 3) (withRng [none]) = .next t ∧ (withRng [none]).status.errcode ≠ 4 ∧ t.status.errcode = 4 :=
  ⟨by decide, by decide, by decide, by decide, _, rfl, by decide, by decide⟩

theorem witness_StepRunsLatchedCommand :
    ((running 0x10100000).eng = .run 0x10100000 0 ∧ decodeWord 0x10100000 = .ok (.ntt 1 0) ∧
      (running 0x10100000).pending = []) ∧
    (0x41034000 < 2 ^ 32 ∧ decodeTableWord 32 0x41034000 = some (.reconcile 3 4)) := by decide

theorem witness_StepKeepsInvariant :
    Inv (running 0x10100000) ∧ ∃ t, step (running 0x10100000) = .next t := by
  refine ⟨⟨by decide, by decide, fun k => rfl, by decide, by decide, by decide, by decide, ?_, ?_⟩, _, rfl⟩
  · rintro w n h
    cases h
    exact ⟨.ntt 1 0, by decide⟩
  · rintro w n h
    cases h
    exact .inl rfl

theorem witness_ParametersAreConstant : ∃ t, step State.reset = .next t := ⟨_, rfl⟩

theorem witness_IdleBlockHolds :
    State.reset.eng = .idle ∧ State.reset.pending = [] ∧ State.reset.bus = .quiet := by decide

theorem witness_RunningCommandCompletes :
    (running 0x10100000).eng = .run 0x10100000 0 ∧ decodeWord 0x10100000 = .ok (.ntt 1 0) ∧
    (∀ rd, Instr.ntt 1 0 ≠ .uniform rd) ∧ (running 0x10100000).pending = [] ∧
    (running 0x10100000).status.busy = true ∧ State.reset.status.busy = false :=
  ⟨rfl, by decide, nofun, rfl, rfl, rfl⟩

/-- A REC that changes KEY, an SMONT that changes SRES, a NOISE that moves the RNG port, a CANON that changes memory. -/
theorem witness_CommandFootprint :
    (∃ t, exec (.reconcile 0 1) (loaded (all 0) (all 0)) = .next t ∧ t.key.toList.take 1 ≠ [0]) ∧
    (∃ t, exec .smont { State.reset with sopa := 3 } = .next t ∧ t.sres ≠ 0) ∧
    (∃ t, exec (.noise 3) (withRng [none]) = .next t ∧ t.rng ≠ (withRng [none]).rng) ∧
    (∃ t, exec (.canon 3 0) (loaded (all 65535) []) = .next t ∧
      t.mem.read 0x2800 ≠ (loaded (all 65535) []).mem.read 0x2800) :=
  ⟨⟨_, rfl, by decide +kernel⟩, ⟨_, rfl, by decide⟩, ⟨_, rfl, by decide⟩, ⟨_, rfl, by decide +kernel⟩⟩

theorem witness_ErrorsChangeOnlyStatus :
    (∃ t, exec (.ntt 9 0) State.reset = .next t ∧ State.reset.status.err = false ∧ t.status.err = true) ∧
    (∃ t, exec (.noise 3) (withRng [none]) = .next t ∧ (withRng [none]).status.err = false ∧
      t.status.err = true) :=
  ⟨⟨_, rfl, by decide, by decide⟩, ⟨_, rfl, by decide, by decide⟩⟩

theorem witness_BadFieldEndsWithBadIndex : (Instr.canon 0 8).wf State.reset.cfg.npoly = false := by decide

theorem witness_CmdWriteIssuesOrOverruns :
    (running 0x10100000).status.busy = true ∧
    (State.reset.status.busy = false ∧ decode State.reset.cfg.npoly 0x30800000 = .error .badIndex) ∧
    (State.reset.status.busy = false ∧ decode State.reset.cfg.npoly 0x30700000 = .ok (.uniform 7)) := by decide

theorem witness_OnlyListedEventsWriteStatus :
    ∃ t, step { State.reset with pending := hostW 0x018 0 } = .next t ∧ t.status ≠ State.reset.status :=
  ⟨_, rfl, by decide⟩

theorem witness_IrqFollowsReports :
    (∃ t, exec .nop State.reset = .next t ∧ t.eng = .idle) ∧ (running 0x10100000).status.busy = true ∧
    (State.reset.status.busy = false ∧ decode State.reset.cfg.npoly 0x03000000 = .error .illegalOpcode) ∧
    (State.reset.status.busy = false ∧ decode State.reset.cfg.npoly 0 = .ok .nop) :=
  ⟨⟨_, rfl, by decide⟩, by decide, by decide, by decide⟩

theorem witness_ConfigurationRegisters :
    (∀ n ∈ [1, 8, 16], 1 ≤ ({ State.reset with cfg := { Params.standard with npoly := n } }).cfg.npoly ∧
      ({ State.reset with cfg := { Params.standard with npoly := n } }).cfg.npoly ≤ 16) ∧
    State.reset.cfg = Params.standard := by decide

theorem witness_SeedRegisters :
    State.reset.status.busy = false ∧ (running 0x10100000).status.busy = true ∧
    ∃ t, exec .nop State.reset = .next t := ⟨by decide, by decide, _, rfl⟩

theorem witness_ScalarKeyAndControlRegisters :
    State.reset.status.busy = false ∧ (running 0x10100000).status.busy = true ∧
    (0xFFFFFFFD : Word32).getLsbD 1 = false := by decide

/-- The ends of each range of reserved offsets, with NPOLY = 8. -/
theorem witness_ReservedOffsets :
    State.reset.cfg.npoly ≤ 16 ∧
    ∀ off ∈ ([0x00C, 0x024, 0x03C, 0x080, 0xFFC, 0x5000, 0x9000, 0xFFFC] : List Offset), off.toNat % 4 = 0 ∧
      (off = 0x00C ∨ (0x024 ≤ off.toNat ∧ off.toNat < 0x040) ∨ (0x080 ≤ off.toNat ∧ off.toNat < 0x1000) ∨
        0x1000 + 0x800 * State.reset.cfg.npoly ≤ off.toNat) := by
  rw [show State.reset.cfg.npoly = 8 from rfl]
  refine ⟨by decide, fun off h => ?_⟩
  simp only [List.mem_cons, List.not_mem_nil, or_false] at h
  rcases h with rfl | rfl | rfl | rfl | rfl | rfl | rfl | rfl <;> simp

theorem witness_BusAccessShapes :
    (∀ a ∈ ([⟨0x010, 2, 0b0011⟩, ⟨0x012, 4, 0b1111⟩, ⟨0x010, 4, 0b0111⟩, ⟨0x010, 8, 0b1111⟩] : List Access),
      ¬ (a.bytes = 4 ∧ a.enables = 0b1111 ∧ a.offset.toNat % 4 = 0)) ∧
    ((aligned 0x010).bytes = 4 ∧ (aligned 0x010).enables = 0b1111 ∧ (aligned 0x010).offset.toNat % 4 = 0) := by
  decide

theorem witness_PolyWindow :
    State.reset.mem.wf = true ∧ (7 : BufIdx).toNat < State.reset.cfg.npoly ∧ 511 < 512 ∧
    State.reset.status.busy = false ∧ (running 0x10100000).mem.wf = true ∧
    (running 0x10100000).status.busy = true := by decide

theorem witness_HardResetState :
    State.reset.eng = .idle ∧ (running 0x31300000).eng = .run 0x31300000 0 ∧
    decodeWord 0x31300000 = .ok (.noise 3) := by decide

theorem witness_SoftResetState :
    (0x00000003 : Word32).getLsbD 1 = true ∧ State.reset.eng = .idle ∧
    (running 0x10100000).eng = .run 0x10100000 0 ∧ decodeWord 0x10100000 = .ok (.ntt 1 0) ∧
    destination (.ntt 1 0) = some 1 ∧ decodeWord 0x41034000 = .ok (.reconcile 3 4) ∧
    destination (.reconcile 3 4) = none := by decide

theorem witness_reductions :
    4294967295 < 2 ^ 32 ∧ 3221487615 < 2 ^ 18 * Q ∧ 65535 < 2 ^ 16 ∧ 13107 ≤ 13107 ∧ 12288 < Q := by decide

theorem witness_SmontResult : ({ State.reset with sopa := 3 } : State).sopa = 3 ∧ State.reset.sopa = 0 := by decide

theorem witness_SbarrResult :
    ∀ v ∈ ([0, 12289, 13108, 65535, 0x00010005, 26214] : List Word32),
      ({ State.reset with sopa := v } : State).sopa = v := fun _ _ => rfl

theorem witness_NopOnlyReports : fieldOpc 0x00000001 = 0 ∧ (0x00000001 : Word32) ≠ 0 ∧
    State.reset.eng = .idle ∧ State.reset.status.busy = false := by decide

theorem witness_wellFormedCommands :
    ∀ i ∈ [Instr.pmul 7 0 7, .padd 0 7 0, .canon 7 7, .ntt 7 0, .intt 0 7, .uniform 7, .noise 0, .helprec 7 7,
      .reconcile 7 0], i.wf State.reset.cfg.npoly = true := by decide

/-- The two sides of PADD's wrap. -/
theorem witness_PaddResult : 65535 + 0 ≤ 65535 ∧ 65536 ≤ 65535 + 1 ∧ 65535 < 2 ^ 16 := by decide

/-- Tables of zeros. -/
def zeroTables : TableRom :=
  .custom ⟨Vector.replicate 1024 0, Vector.replicate 512 0, Vector.replicate 512 0, Vector.replicate 1024 0⟩

theorem tableWords_zero_below (n : Nat) : ∀ x ∈ tableWords (Vector.replicate n (0 : Word16)), x < Q := by
  intro x hx
  rw [tableWords, List.mem_map] at hx
  obtain ⟨y, hy, rfl⟩ := hx
  rw [Vector.mem_toList_iff] at hy
  rw [Vector.eq_of_mem_replicate hy]
  decide

theorem zeroTables_belowQ : TablesBelowQ zeroTables := by
  refine ⟨?_, ?_, ?_, ?_⟩ <;> intro x hx <;> exact tableWords_zero_below _ x hx

/-- The state after reset with tables of zeros. -/
def withZeroTables : State := { State.reset with cfg := { Params.standard with tables := zeroTables } }

theorem witness_WrittenWordsMeetInputRanges :
    TablesBelowQ withZeroTables.cfg.tables ∧ ∃ t, exec (.ntt 1 0) withZeroTables = .next t :=
  ⟨zeroTables_belowQ, _, rfl⟩

theorem witness_BitReversal : 1023 < 1024 ∧ 9 < 10 ∧ 511 < 512 ∧ 8 < 9 ∧ (all 0).length = 1024 :=
  ⟨by decide, by decide, by decide, by decide, List.length_replicate⟩

theorem isBuffer_all {c : Nat} (h : c < 2 ^ 16) : isBuffer (all c) :=
  ⟨List.length_replicate, fun x hx => by rw [List.eq_of_mem_replicate hx]; exact h⟩

theorem witness_NetworkIsTheLoopsOfR505 : isBuffer (all 65535) ∧ (List.replicate 512 12288).length = 512 :=
  ⟨isBuffer_all (by decide), List.length_replicate⟩

theorem witness_NetworkRange :
    (all 16383).length = 1024 ∧ (List.replicate 512 12288).length = 512 ∧
    (∀ x ∈ List.replicate 512 12288, x < Q) ∧ ∀ x ∈ all 16383, x ≤ 16383 :=
  ⟨List.length_replicate, List.length_replicate,
    fun x hx => by rw [List.eq_of_mem_replicate hx]; decide,
    fun x hx => by rw [List.eq_of_mem_replicate hx]⟩

theorem witness_NetworkFunction : (all 16383).length = 1024 ∧ (∀ x ∈ all 16383, x ≤ 16383) ∧ 1023 < 1024 :=
  ⟨List.length_replicate, fun x hx => by rw [List.eq_of_mem_replicate hx], by decide⟩

theorem witness_NttResult :
    (Instr.ntt 7 0).wf withZeroTables.cfg.npoly = true ∧ TablesBelowQ withZeroTables.cfg.tables :=
  ⟨by decide, zeroTables_belowQ⟩

theorem witness_InttResult :
    (Instr.intt 0 7).wf withZeroTables.cfg.npoly = true ∧ TablesBelowQ withZeroTables.cfg.tables :=
  ⟨by decide, zeroTables_belowQ⟩

theorem witness_TransformMeaning :
    isBuffer (all 65535) ∧ 1023 < 1024 ∧ (all 16383).length = 1024 ∧ ∀ x ∈ all 16383, x ≤ 16383 :=
  ⟨isBuffer_all (by decide), by decide, List.length_replicate, fun x hx => by rw [List.eq_of_mem_replicate hx]⟩

theorem witness_InverseLaw :
    (all 12288).length = 1024 ∧ (∀ x ∈ all 12288, x < Q) ∧ isBuffer (all 65535) :=
  ⟨List.length_replicate, fun x hx => by rw [List.eq_of_mem_replicate hx]; decide, isBuffer_all (by decide)⟩

theorem witness_RingIdentity : isBuffer (all 65535) ∧ isBuffer (all 12288) ∧ 1023 < 1024 :=
  ⟨isBuffer_all (by decide), isBuffer_all (by decide), by decide⟩

/-! ### Streams -/

/-- The stream whose every word is 0. -/
def zeroStream : State := withXof [] [0x00]

/-- The stream whose every word is 0xFFFF, which MASK14 rejects. -/
def rejectedStream : State := withXof [] [0xFF]

theorem wordsOfBytes_replicate (b : Byte) : ∀ n,
    wordsOfBytes (List.replicate (2 * n) b) = List.replicate n (b.toNat + 256 * b.toNat)
  | 0 => rfl
  | n + 1 => by
    rw [show 2 * (n + 1) = 2 * n + 1 + 1 by omega, List.replicate_succ, List.replicate_succ, wordsOfBytes,
      wordsOfBytes_replicate b n, List.replicate_succ]

theorem xofWords_cycle (b : Byte) (n : Nat) :
    (withXof [] [b]).xofWords n = List.replicate n (b.toNat + 256 * b.toNat) := by
  have h : xofBytes (.playback [] [b]) (withXof [] [b]).seedBytes (2 * n) = List.replicate (2 * n) b := by
    rw [xofBytes, List.eq_replicate_iff]
    simp [playbackByte, Nat.mod_one]
  rw [State.xofWords, show (withXof [] [b]).cfg.xof = .playback [] [b] from rfl, h, wordsOfBytes_replicate]

theorem zeroStream_accepted (n : Nat) : (zeroStream.accepted n).length = n := by
  rw [State.accepted, zeroStream, xofWords_cycle, List.filterMap_replicate]
  rw [show (withXof [] [0x00]).cfg.uniformMode = .mask14 from rfl, show acceptWord .mask14 _ = some 0 by decide]
  exact List.length_replicate

theorem rejectedStream_accepted (n : Nat) : (rejectedStream.accepted n).length = 0 := by
  rw [State.accepted, rejectedStream, xofWords_cycle, List.filterMap_replicate]
  rw [show (withXof [] [0xFF]).cfg.uniformMode = .mask14 from rfl, show acceptWord .mask14 _ = none by decide]
  rfl

/-- A word that only MULT5Q accepts, and the least that both reject. -/
theorem witness_AcceptedWords : 12289 < 2 ^ 16 ∧ 61445 < 2 ^ 16 ∧ 65535 < 2 ^ 16 := by decide

theorem witness_UniformResult :
    (Instr.uniform 7).wf zeroStream.cfg.npoly = true ∧
    1024 ≤ (zeroStream.accepted (zeroStream.examined + 4096)).length ∧
    (rejectedStream.accepted (rejectedStream.examined + 4096)).length < 1024 := by
  rw [zeroStream_accepted, rejectedStream_accepted]
  decide

/-- The first clause at its least number of words, and the second clause. -/
theorem witness_UniformCompletesExactlyWhenItCan :
    ∃ s s' : State,
      ((Instr.uniform 7).wf s.cfg.npoly = true ∧ s.eng = .run (encode (.uniform 7)) 0 ∧ s.pending = [] ∧
        1024 ≤ (s.accepted 1024).length) ∧
      ((Instr.uniform 7).wf s'.cfg.npoly = true ∧ s'.eng = .run (encode (.uniform 7)) 0 ∧ s'.pending = [] ∧
        ∀ words, (s'.accepted words).length < 1024) := by
  refine ⟨{ zeroStream with eng := .run (encode (.uniform 7)) 0 },
    { rejectedStream with eng := .run (encode (.uniform 7)) 0 },
    ⟨by decide, rfl, rfl, ?_⟩, ⟨by decide, rfl, rfl, fun words => ?_⟩⟩
  · exact (zeroStream_accepted 1024).ge
  · have h : ({ rejectedStream with eng := .run (encode (.uniform 7)) 0 }.accepted words).length = 0 :=
      rejectedStream_accepted words
    omega

theorem answers_replicate (n k : Nat) (h : k < n) :
    (withRng (List.replicate n (some 0))).rng.answer k = some (byteAt (List.replicate n 0) k) := by
  simp [Rng.answer, withRng, byteAt, h]

theorem answer_last (n : Nat) : (withRng (List.replicate n (some 0) ++ [none])).rng.answer n = none := by
  simp [Rng.answer, withRng]

theorem answer_before (n k : Nat) (h : k < n) :
    (withRng (List.replicate n (some 0) ++ [none])).rng.answer k = some 0 := by
  have h' : k < n + 1 := by omega
  simp [Rng.answer, withRng, h, h']

/-- Every draw succeeds; or the last one fails. -/
theorem witness_NoiseResult :
    (Instr.noise 7).wf State.reset.cfg.npoly = true ∧ (List.replicate 4096 (0 : Byte)).length = 4096 ∧
    (∀ k < 4096, (withRng (List.replicate 4096 (some 0))).rng.answer k = some (byteAt (List.replicate 4096 0) k)) ∧
    (withRng (List.replicate 4095 (some 0) ++ [none])).rng.answer 4095 = none ∧
    ∀ k < 4095, (withRng (List.replicate 4095 (some 0) ++ [none])).rng.answer k ≠ none := by
  refine ⟨by decide, List.length_replicate, answers_replicate 4096, ?_, fun k hk => ?_⟩
  · exact answer_last 4095
  · rw [answer_before 4095 k hk]
    exact nofun

/-- Every draw succeeds; or the first one fails. -/
theorem witness_HelprecResult :
    (Instr.helprec 7 7).wf State.reset.cfg.npoly = true ∧ (List.replicate 32 (0 : Byte)).length = 32 ∧
    (∀ k < 32, (withRng (List.replicate 32 (some 0))).rng.answer k = some (byteAt (List.replicate 32 0) k)) ∧
    (withRng [none]).rng.answer 0 = none ∧ ∀ k < 0, (withRng [none]).rng.answer k ≠ none :=
  ⟨by decide, List.length_replicate, answers_replicate 32, rfl, fun _ h => absurd h (by omega)⟩

theorem witness_ReconciliationIsModularInQ :
    (all 0).length = 1024 ∧ (all 12289).length = 1024 ∧ (all 0).map (· % Q) = (all 12289).map (· % Q) ∧
    (List.replicate 32 (0 : Byte)).length = 32 :=
  ⟨List.length_replicate, List.length_replicate, by rw [all, all, List.map_replicate, List.map_replicate,
    show 0 % Q = 12289 % Q by decide], List.length_replicate⟩

theorem witness_RecHelperBitsAndPolarity : (all 0).length = 1024 ∧ (all 65535).length = 1024 :=
  ⟨List.length_replicate, List.length_replicate⟩

end Sys2Proof.Tests
end

section
/-! SUPPORT. Rules for host accesses: what each host register of spec/10_state.md answers to a read and does on a write,
and how a register's own rule becomes a statement about the step (`ReadsAs`, `WritesTo`). -/
namespace Sys2Proof.Machine

/-! ## A host access as the next step -/

/-- The state on which a host access acts when it is the next step and `rest` is pending after it. -/
def State.atAccess (s : State) (rest : List Event) : State :=
  { s with pending := rest, tick := s.tick + 1, bus := .quiet }

theorem State.begin_cons (s : State) (e : Event) (rest : List Event) :
    State.begin { s with pending := e :: rest } = s.atAccess rest := rfl

theorem aligned_ok {off : Offset} (h : off.toNat % 4 = 0) : (aligned off).ok = true := by
  simp [Access.ok, aligned, h]

/-- A register's read rule, as a statement about the step. -/
theorem readsAs_of_readReg {s : State} {off : Offset} {v : Word32} (hoff : off.toNat % 4 = 0)
    (hread : ∀ rest, (s.atAccess rest).readReg off = v) : ReadsAs s off v := by
  intro rest
  calc step { s with pending := .read (aligned off) :: rest }
      = .next ((s.atAccess rest).hostRead (aligned off)) := by rw [← State.begin_cons]; rfl
    _ = .next { s.atAccess rest with bus := .data v } := by
      rw [State.hostRead, if_pos (aligned_ok hoff), ← hread rest, aligned]

/-- A register's write rule, as a statement about the step. -/
theorem writesTo_of_writeReg {s t : State} {off : Offset} {v : Word32} (hoff : off.toNat % 4 = 0)
    (htick : t.tick = s.tick) (hwrite : ∀ rest, (s.atAccess rest).writeReg off v = t.atAccess rest) :
    WritesTo s off v t := by
  intro rest
  calc step { s with pending := .write (aligned off) v :: rest }
      = .next ((s.atAccess rest).hostWrite (aligned off) v) := by rw [← State.begin_cons]; rfl
    _ = .next { (s.atAccess rest).writeReg off v with bus := .accepted } := by
      rw [State.hostWrite, if_pos (aligned_ok hoff), aligned]
    _ = .next { t with pending := rest, tick := s.tick + 1, bus := .accepted } := by
      rw [hwrite rest, ← htick]; rfl

/-! ## The registers at fixed offsets (R110) -/

section
variable (s : State) (v : Word32)

theorem State.readReg_id : s.readReg 0x000 = idWord := rfl
theorem State.readReg_cfg0 : s.readReg 0x004 = cfg0Word s.cfg := rfl
theorem State.readReg_cfg1 : s.readReg 0x008 = cfg1Word s.cfg := rfl
theorem State.readReg_cmd : s.readReg 0x018 = 0 := rfl
theorem State.writeReg_id : s.writeReg 0x000 v = s := rfl
theorem State.writeReg_cfg0 : s.writeReg 0x004 v = s := rfl
theorem State.writeReg_cfg1 : s.writeReg 0x008 v = s := rfl
theorem State.writeReg_status : s.writeReg 0x014 v = s.acknowledge v := rfl
theorem State.writeReg_cmd : s.writeReg 0x018 v = s.issue v := rfl

/-- A CTRL write without SRST stores IE (R115). -/
theorem State.writeReg_ctrl_of_no_srst (h : v.getLsbD 1 = false) :
    s.writeReg 0x010 v = { s with ie := v.getLsbD 0 } := by
  have hctrl : s.writeReg 0x010 v = if v.getLsbD 1 then s.softReset else { s with ie := v.getLsbD 0 } := rfl
  rw [hctrl, h]
  rfl

end

/-! ## SEED (R120) -/

/-- The aligned offset of SEEDk. -/
abbrev seedOffset (k : Fin 8) : Offset := BitVec.ofNat 16 (0x040 + 4 * k.val)

theorem seedOffset_toNat (k : Fin 8) : (seedOffset k).toNat = 0x040 + 4 * k.val := by
  rw [BitVec.toNat_ofNat]
  omega

theorem seedOffset_aligned (k : Fin 8) : (seedOffset k).toNat % 4 = 0 := by
  rw [seedOffset_toNat]
  omega

theorem hostReg_seedOffset (npoly : Nat) (k : Fin 8) : hostReg npoly (seedOffset k).toNat = .seed k := by
  have hk : Fin.ofNat 8 ((0x040 + 4 * k.val - 0x040) / 4) = k := Fin.ext (by simp)
  rw [seedOffset_toNat, hostReg, if_neg (by omega), if_neg (by omega), if_neg (by omega), if_neg (by omega),
    if_neg (by omega), if_neg (by omega), if_neg (by omega), if_neg (by omega), if_pos (by omega), hk]

theorem State.readReg_seed (s : State) (k : Fin 8) : s.readReg (seedOffset k) = s.seed[k] := by
  rw [State.readReg, hostReg_seedOffset]

theorem State.writeReg_seed_of_idle {s : State} (k : Fin 8) (v : Word32) (h : s.status.busy = false) :
    s.writeReg (seedOffset k) v = { s with seed := s.seed.set k v } := by
  rw [State.writeReg, hostReg_seedOffset]
  simp only [h, Bool.false_eq_true, if_false]

theorem State.writeReg_seed_of_busy {s : State} (k : Fin 8) (v : Word32) (h : s.status.busy = true) :
    s.writeReg (seedOffset k) v = s := by
  rw [State.writeReg, hostReg_seedOffset]
  simp only [h, if_true]

/-! ## A CMD write (R118, R902) -/

theorem State.issue_of_busy {s : State} (w : Word32) (h : s.status.busy = true) :
    s.issue w = { s with status := { s.status with cmdovf := true } } := by
  rw [State.issue, if_pos h]
  rfl

theorem State.issue_of_decode_error {s : State} {w : Word32} {e : CmdError} (hbusy : s.status.busy = false)
    (hdec : decode s.cfg.npoly w = .error e) :
    s.issue w = { s with status := ⟨false, true, true, s.status.cmdovf, e.code⟩, eng := .idle } := by
  rw [State.issue, hbusy, State.accept, hdec]
  rfl

theorem State.issue_of_decode_ok {s : State} {w : Word32} {i : Instr} (hbusy : s.status.busy = false)
    (hdec : decode s.cfg.npoly w = .ok i) :
    s.issue w = { s with status := ⟨true, false, false, s.status.cmdovf, 0⟩, eng := .run w 0 } := by
  rw [State.issue, hbusy, State.accept, hdec]
  rfl

/-! ## The words of CFG0 and CFG1 (R112, R113) -/

theorem getLsbD_bitAt {k : Nat} (hk : k < 32) (b : Bool) (i : Nat) :
    (bitAt k b).getLsbD i = (b && decide (i = k)) := by
  cases b with
  | false => simp [bitAt]
  | true => simp [bitAt, BitVec.getLsbD_twoPow, hk, eq_comm]

theorem cfg0Word_toNat (p : Params) :
    (cfg0Word p).toNat = p.npoly % 256 + 10 * 2 ^ 8 + 12289 * 2 ^ 16 := by
  rw [cfg0Word, BitVec.toNat_ofNat, show Q = 12289 from rfl]
  omega

theorem cfg0Word_field_toNat (p : Params) (lo len : Nat) :
    ((cfg0Word p).extractLsb' lo len).toNat = (p.npoly % 256 + 10 * 2 ^ 8 + 12289 * 2 ^ 16) / 2 ^ lo % 2 ^ len := by
  rw [BitVec.extractLsb'_toNat, Nat.shiftRight_eq_div_pow, cfg0Word_toNat]

theorem cfg0Word_npoly (p : Params) (h : p.npoly < 256) : ((cfg0Word p).extractLsb' 0 8).toNat = p.npoly := by
  rw [cfg0Word_field_toNat]
  omega

/-- LOG2N, Q and the two bits above them do not depend on NPOLY. -/
theorem cfg0Word_constants (p : Params) :
    (cfg0Word p).extractLsb' 8 8 = 10 ∧ (cfg0Word p).extractLsb' 16 14 = 0x3001 ∧
      (cfg0Word p).extractLsb' 30 2 = 0 := by
  have hnpoly : p.npoly % 256 < 256 := Nat.mod_lt _ (by decide)
  refine ⟨BitVec.eq_of_toNat_eq ?_, BitVec.eq_of_toNat_eq ?_, BitVec.eq_of_toNat_eq ?_⟩
  · exact (cfg0Word_field_toNat p 8 8).trans (show _ = 10 by omega)
  · exact (cfg0Word_field_toNat p 16 14).trans (show _ = 0x3001 by omega)
  · exact (cfg0Word_field_toNat p 30 2).trans (show _ = 0 by omega)

theorem cfg1Word_getLsbD (p : Params) (i : Nat) :
    (cfg1Word p).getLsbD i =
      (p.fwdPermute && decide (i = 0) || uniformModeBit p.uniformMode && decide (i = 1) ||
        p.recInvert && decide (i = 2)) := by
  simp only [cfg1Word, BitVec.getLsbD_or, getLsbD_bitAt (show 0 < 32 by decide), getLsbD_bitAt (show 1 < 32 by decide),
    getLsbD_bitAt (show 2 < 32 by decide)]

theorem uniformModeBit_eq_true_iff (m : UniformMode) : uniformModeBit m = true ↔ m = .mult5q := by
  cases m <;> simp [uniformModeBit]

theorem cfg1Word_fields (p : Params) :
    (cfg1Word p).getLsbD 0 = p.fwdPermute ∧ ((cfg1Word p).getLsbD 1 = true ↔ p.uniformMode = .mult5q) ∧
      (cfg1Word p).getLsbD 2 = p.recInvert := by
  simp only [cfg1Word_getLsbD, ← uniformModeBit_eq_true_iff]
  simp

theorem cfg1Word_reserved (p : Params) : (cfg1Word p).extractLsb' 3 29 = 0 := by
  ext i hi
  have h1 : 3 + i ≠ 1 := by omega
  have h2 : 3 + i ≠ 2 := by omega
  simp [cfg1Word_getLsbD, h1, h2]

theorem cfg0Word_standard : cfg0Word Params.standard = 0x30010A08 := by decide

theorem cfg1Word_standard : cfg1Word Params.standard = 0x00000001 := by decide

/-! ## The seed bytes (R120) -/

/-- Byte j of words taken as bytes is byte j mod 4 of word j div 4. -/
theorem byteAt_flatMap_bytesOfWord32 : ∀ (ws : List Word32) (j : Nat) (h : j / 4 < ws.length),
    byteAt (ws.flatMap bytesOfWord32) j = ws[j / 4].extractLsb' (8 * (j % 4)) 8
  | [], _, h => absurd h (Nat.not_lt_zero _)
  | _ :: _, 0, _ => rfl
  | _ :: _, 1, _ => rfl
  | _ :: _, 2, _ => rfl
  | _ :: _, 3, _ => rfl
  | w :: ws, j + 4, h => by
    have hdiv : (j + 4) / 4 = j / 4 + 1 := by omega
    have hmod : (j + 4) % 4 = j % 4 := by omega
    have hj : j / 4 < ws.length := by rw [hdiv, List.length_cons] at h; omega
    have hskip : byteAt ((w :: ws).flatMap bytesOfWord32) (j + 4) = byteAt (ws.flatMap bytesOfWord32) j := rfl
    simp only [hskip, byteAt_flatMap_bytesOfWord32 ws j hj, hdiv, hmod, List.getElem_cons_succ]

end Sys2Proof.Machine
end

section
/-! SUPPORT. What no command changes, said once for every command. -/
namespace Sys2Proof.Machine

/-- t is s but for the fields a command may change: the buffer file, KEY, SRES, STATUS, ENG and the RNG port. -/
def CommandFrame (s t : State) : Prop :=
  t = { s with mem := t.mem, key := t.key, sres := t.sres, status := t.status, eng := t.eng, rng := t.rng }

theorem CommandFrame.seed_eq {s t : State} (h : CommandFrame s t) : t.seed = s.seed := by rw [h]

/-- The field check adds only its error report to what the command changes. -/
theorem CommandFrame.withFields {s : State} {k : State → State} (fields : List BufIdx) (h : CommandFrame s (k s)) :
    CommandFrame s (s.withFields fields k) := by
  rcases s.withFields_cases fields k with ⟨-, hrun⟩ | ⟨-, herr⟩
  · rwa [hrun]
  · rw [herr]
    rfl

/-- Every command answers a next state, in which only the fields of `CommandFrame` have changed. -/
theorem exec_commandFrame (i : Instr) (s : State) : ∃ t, exec i s = .next t ∧ CommandFrame s t := by
  cases i with
  | nop => exact ⟨_, rfl, rfl⟩
  | smont => exact ⟨_, rfl, rfl⟩
  | sbarr => exact ⟨_, rfl, rfl⟩
  | ntt rd rs1 => exact ⟨_, rfl, .withFields _ rfl⟩
  | intt rd rs1 => exact ⟨_, rfl, .withFields _ rfl⟩
  | pmul rd rs1 rs2 => exact ⟨_, rfl, .withFields _ rfl⟩
  | padd rd rs1 rs2 => exact ⟨_, rfl, .withFields _ rfl⟩
  | canon rd rs1 => exact ⟨_, rfl, .withFields _ rfl⟩
  | uniform rd =>
    refine ⟨_, rfl, .withFields _ ?_⟩
    split <;> rfl
  | noise rd =>
    refine ⟨_, rfl, .withFields _ ?_⟩
    split <;> rfl
  | helprec rd rs1 =>
    refine ⟨_, rfl, .withFields _ ?_⟩
    split <;> rfl
  | reconcile rs1 rs2 => exact ⟨_, rfl, .withFields _ rfl⟩

theorem commandFrame_of_exec {i : Instr} {s t : State} (h : exec i s = .next t) : CommandFrame s t := by
  obtain ⟨t', ht', hframe⟩ := exec_commandFrame i s
  obtain rfl : t = t' := by rw [h] at ht'; injection ht'
  exact hframe

end Sys2Proof.Machine
end

section
/-! The statements about CMD, IRQ, ID, CFG0, CFG1 and SEED (spec/10_state.md R111 to R113, R118 to R120). -/
namespace Sys2Proof.Machine

/-- Settles O17: one rule of `State.issue` for each case of the write. -/
theorem cmdWriteIssuesOrOverruns : Obligations.CmdWriteIssuesOrOverruns := by
  intro s w
  refine ⟨fun hbusy => ?_, fun e hbusy hdec => ?_, fun i hbusy hdec => ?_, ?_⟩
  · exact writesTo_of_writeReg rfl rfl fun rest => State.issue_of_busy (s := s.atAccess rest) w hbusy
  · exact writesTo_of_writeReg rfl rfl fun rest => State.issue_of_decode_error (s := s.atAccess rest) hbusy hdec
  · exact writesTo_of_writeReg rfl rfl fun rest => State.issue_of_decode_ok (s := s.atAccess rest) hbusy hdec
  · exact readsAs_of_readReg rfl fun rest => (s.atAccess rest).readReg_cmd

/-- Settles O22: the registers read as `idWord`, `cfg0Word` and `cfg1Word`, whose fields are the parameters'. -/
theorem configurationRegisters : Obligations.ConfigurationRegisters := by
  intro s v _ hle
  have hcfg0 : ReadsAs s 0x004 (cfg0Word s.cfg) := readsAs_of_readReg rfl fun rest => (s.atAccess rest).readReg_cfg0
  have hcfg1 : ReadsAs s 0x008 (cfg1Word s.cfg) := readsAs_of_readReg rfl fun rest => (s.atAccess rest).readReg_cfg1
  obtain ⟨hlog2n, hq, htop⟩ := cfg0Word_constants s.cfg
  obtain ⟨hfwd, hmode, hinv⟩ := cfg1Word_fields s.cfg
  refine ⟨⟨?_, ?_⟩, ⟨_, hcfg0, cfg0Word_npoly _ (by omega), hlog2n, hq, htop⟩, ?_,
    ⟨_, hcfg1, hfwd, hmode, hinv, cfg1Word_reserved _⟩, ?_, fun hstd => ?_⟩
  · exact readsAs_of_readReg rfl fun rest => (s.atAccess rest).readReg_id
  · exact writesTo_of_writeReg rfl rfl fun rest => (s.atAccess rest).writeReg_id v
  · exact writesTo_of_writeReg rfl rfl fun rest => (s.atAccess rest).writeReg_cfg0 v
  · exact writesTo_of_writeReg rfl rfl fun rest => (s.atAccess rest).writeReg_cfg1 v
  · rw [hstd, cfg0Word_standard] at hcfg0
    rw [hstd, cfg1Word_standard] at hcfg1
    exact ⟨hcfg0, hcfg1⟩

/-- Settles O23: the register's read and write rules, the byte order of the seed, and the frame of every command. -/
theorem seedRegisters : Obligations.SeedRegisters := by
  refine ⟨fun s k v => ⟨?_, fun hbusy => ?_, fun hbusy => ?_⟩, fun s j => ?_, rfl, fun i s t h => ?_⟩
  · exact readsAs_of_readReg (seedOffset_aligned k) fun rest => (s.atAccess rest).readReg_seed k
  · exact writesTo_of_writeReg (seedOffset_aligned k) rfl fun rest =>
      State.writeReg_seed_of_idle (s := s.atAccess rest) k v hbusy
  · exact writesTo_of_writeReg (seedOffset_aligned k) rfl fun rest =>
      State.writeReg_seed_of_busy (s := s.atAccess rest) k v hbusy
  · have hword : j.val / 4 < s.seed.toList.length := by rw [Vector.length_toList]; omega
    rw [State.seedBytes, byteAt_flatMap_bytesOfWord32 _ _ hword, Vector.getElem_toList]
  · exact (commandFrame_of_exec h).seed_eq

theorem State.irq_eq_true_iff (s : State) :
    s.irq = true ↔ s.ie = true ∧ (s.status.done = true ∨ s.status.err = true) := by
  rw [State.irq, Bool.and_eq_true, Bool.or_eq_true]

/-- Settles O20: the W1C write leaves DONE and ERR 0, and the CTRL write leaves IE 0. -/
theorem irqLevel : Obligations.IrqLevel := by
  refine ⟨State.irq_eq_true_iff, rfl, fun s => ⟨s.acknowledge 0x00000006, ?_, ?_⟩,
    fun s => ⟨{ s with ie := false }, ?_, ?_⟩⟩
  · exact writesTo_of_writeReg rfl rfl fun rest => (s.atAccess rest).writeReg_status _
  · simp [State.irq]
  · exact writesTo_of_writeReg rfl rfl fun rest => (s.atAccess rest).writeReg_ctrl_of_no_srst _ rfl
  · simp [State.irq]

end Sys2Proof.Machine
end

section
/-! SUPPORT. A host access of any shape as the next step: which shape is accepted, and what each answer is
(spec/20_memory.md R201). -/
namespace Sys2Proof.Machine

theorem Access.ok_iff (a : Access) :
    a.ok = true ↔ a.bytes = 4 ∧ a.enables = 0b1111 ∧ a.offset.toNat % 4 = 0 := by
  simp only [Access.ok, Bool.and_eq_true, decide_eq_true_eq, and_assoc]
  rfl

section
variable (s : State) (a : Access) (v : Word32) (rest : List Event)

theorem step_read : step { s with pending := .read a :: rest } = .next ((s.atAccess rest).hostRead a) := rfl

theorem step_write : step { s with pending := .write a v :: rest } = .next ((s.atAccess rest).hostWrite a v) := rfl

theorem State.hostRead_of_ok (h : a.ok = true) : s.hostRead a = { s with bus := .data (s.readReg a.offset) } :=
  if_pos h

theorem State.hostRead_of_not_ok (h : ¬ a.ok = true) : s.hostRead a = { s with bus := .busError } :=
  if_neg h

theorem State.hostWrite_of_ok (h : a.ok = true) :
    s.hostWrite a v = { s.writeReg a.offset v with bus := .accepted } :=
  if_pos h

theorem State.hostWrite_of_not_ok (h : ¬ a.ok = true) : s.hostWrite a v = { s with bus := .busError } :=
  if_neg h

end

end Sys2Proof.Machine
end

section
/-! SUPPORT. The POLY window (spec/20_memory.md R203): the buffer file byte by byte, a word as its two bytes, and a pair
of words as the four bytes of a bus word, the low byte first (R204). -/
namespace Sys2Proof.Machine

/-! ## Bytes, words and pairs (R204) -/

theorem wordOfBytes_toNat (b0 b1 b2 b3 : Byte) :
    (wordOfBytes b0 b1 b2 b3).toNat
      = b0.toNat + 2 ^ 8 * b1.toNat + 2 ^ 16 * b2.toNat + 2 ^ 24 * b3.toNat := by
  rw [wordOfBytes, BitVec.toNat_append, BitVec.toNat_append, BitVec.toNat_append,
    ← Nat.shiftLeft_add_eq_or_of_lt b2.isLt, ← Nat.shiftLeft_add_eq_or_of_lt b1.isLt,
    ← Nat.shiftLeft_add_eq_or_of_lt b0.isLt]
  simp only [Nat.shiftLeft_eq]
  omega

/-- Two neighbouring bytes of a bus word are one of its 16-bit fields. -/
theorem extractLsb'_byte_pair_toNat (v : Word32) (lo : Nat) :
    (v.extractLsb' lo 8).toNat + 256 * (v.extractLsb' (lo + 8) 8).toNat = (v.extractLsb' lo 16).toNat := by
  simp only [BitVec.extractLsb'_toNat, Nat.shiftRight_eq_div_pow, Nat.pow_add, ← Nat.div_div_eq_div_mul]
  omega

theorem bytesOfWord32_getElem? (v : Word32) : ∀ {k : Nat}, k < 4 →
    (bytesOfWord32 v)[k]? = some (v.extractLsb' (8 * k) 8)
  | 0, _ => rfl
  | 1, _ => rfl
  | 2, _ => rfl
  | 3, _ => rfl

/-- Word i of words read off bytes has byte 2i as its low byte and byte 2i+1 as its high byte. -/
theorem wordAt_wordsOfBytes : ∀ (bs : List Byte) (i : Nat), 2 * i + 1 < bs.length →
    wordAt (wordsOfBytes bs) i = (byteAt bs (2 * i)).toNat + 256 * (byteAt bs (2 * i + 1)).toNat
  | [], _, h => absurd h (Nat.not_lt_zero _)
  | [_], i, h => absurd h (show ¬ 2 * i + 1 < 1 by omega)
  | _ :: _ :: _, 0, _ => rfl
  | lo :: hi :: bs, i + 1, h => by
    have hi' : 2 * i + 1 < bs.length := by
      simp only [List.length_cons] at h
      omega
    exact wordAt_wordsOfBytes bs i hi'

/-! ## The buffer file byte by byte (R101) -/

/-- The byte at an address, the free value of this step where it holds none. -/
def State.byte (s : State) (a : Nat) : Byte := (s.mem.read a).getD (s.fill a)

theorem State.load_eq_byte {s : State} (hwf : s.mem.wf = true) (a n : Nat) :
    s.mem.load s.fill a n = (List.range n).map fun k => s.byte (a + k) :=
  Memory.load_eq_read hwf

/-- Word j of pair w of a buffer has the bytes 2j and 2j+1 of the pair. -/
theorem State.wordAt_poly {s : State} (hwf : s.mem.wf = true) (p : BufIdx) {w j : Nat} (hw : w < 512) (hj : j < 2) :
    wordAt (s.poly p) (2 * w + j)
      = (s.byte (bufBase p.toNat + 4 * w + 2 * j)).toNat
        + 256 * (s.byte (bufBase p.toNat + 4 * w + (2 * j + 1))).toNat := by
  have hbyte : ∀ k < 2048, byteAt (s.mem.load s.fill (bufBase p.toNat) 2048) k = s.byte (bufBase p.toNat + k) := by
    intro k hk
    simp [byteAt, State.load_eq_byte hwf, hk]
  have hlow : 2 * (2 * w + j) = 4 * w + 2 * j := by omega
  rw [State.poly, wordAt_wordsOfBytes _ _ (by rw [Memory.load_length]; omega), hbyte _ (by omega), hbyte _ (by omega),
    hlow, Nat.add_assoc _ (4 * w), Nat.add_assoc _ (4 * w), Nat.add_assoc (4 * w)]

theorem State.readPair_eq_wordOfBytes {s : State} (hwf : s.mem.wf = true) (p w : Nat) :
    s.readPair p w = wordOfBytes (s.byte (bufBase p + 4 * w)) (s.byte (bufBase p + 4 * w + 1))
      (s.byte (bufBase p + 4 * w + 2)) (s.byte (bufBase p + 4 * w + 3)) := by
  rw [State.readPair, State.load_eq_byte hwf]
  rfl

/-- A pair reads as its two words, the even one in the low half (R203, R204). -/
theorem State.readPair_eq_words {s : State} (hwf : s.mem.wf = true) (p : BufIdx) {w : Nat} (hw : w < 512) :
    s.readPair p.toNat w
      = BitVec.ofNat 32 (wordAt (s.poly p) (2 * w) + 2 ^ 16 * wordAt (s.poly p) (2 * w + 1)) := by
  have heven := State.wordAt_poly hwf p hw (j := 0) (by decide)
  have hodd := State.wordAt_poly hwf p hw (j := 1) (by decide)
  have hsum : (s.readPair p.toNat w).toNat
      = wordAt (s.poly p) (2 * w) + 2 ^ 16 * wordAt (s.poly p) (2 * w + 1) := by
    rw [State.readPair_eq_wordOfBytes hwf, wordOfBytes_toNat]
    simp only [Nat.mul_zero, Nat.mul_one, Nat.add_zero, Nat.zero_add, Nat.reduceAdd] at heven hodd
    omega
  rw [← hsum, BitVec.ofNat_toNat, BitVec.setWidth_eq]

/-! ## A pair after it is written -/

section
variable (s : State) (p w : Nat) (v : Word32)

theorem State.wf_writePair (hwf : s.mem.wf = true) : (s.writePair p w v).mem.wf = true := Memory.wf_store hwf

theorem State.read_writePair_outside {a : Nat} (ha : a < bufBase p + 4 * w ∨ bufBase p + 4 * w + 4 ≤ a) :
    (s.writePair p w v).mem.read a = s.mem.read a := by
  rw [State.writePair_mem, Memory.read_store, bytesOfWord32_length, if_neg (by omega)]

/-- Byte k of a pair that was written is byte k of the value (R204). -/
theorem State.byte_writePair {k : Nat} (hk : k < 4) :
    (s.writePair p w v).byte (bufBase p + 4 * w + k) = v.extractLsb' (8 * k) 8 := by
  rw [State.byte, State.writePair_mem, Memory.read_store, bytesOfWord32_length, if_pos (by omega),
    Nat.add_sub_cancel_left, bytesOfWord32_getElem? v hk, Option.getD_some]

end

/-- Word j of a pair that was written is the 16-bit half j of the value (R203). -/
theorem State.wordAt_writePair {s : State} (hwf : s.mem.wf = true) (p : BufIdx) {w j : Nat} (hw : w < 512) (hj : j < 2)
    (v : Word32) :
    wordAt ((s.writePair p.toNat w v).poly p) (2 * w + j) = (v.extractLsb' (16 * j) 16).toNat := by
  have hlow : 8 * (2 * j) = 16 * j := by omega
  have hhigh : 8 * (2 * j + 1) = 16 * j + 8 := by omega
  rw [State.wordAt_poly (s.wf_writePair _ _ _ hwf) p hw hj, State.byte_writePair _ _ _ _ (by omega),
    State.byte_writePair _ _ _ _ (by omega), hlow, hhigh, extractLsb'_byte_pair_toNat]

/-! ## The window in the register map (R202, R203, R206) -/

/-- The aligned offset of words 2w and 2w+1 of buffer p. -/
abbrev polyOffset (p : BufIdx) (w : Nat) : Offset := BitVec.ofNat 16 (0x1000 + 0x800 * p.toNat + 4 * w)

section
variable {s : State} {p : BufIdx} {w : Nat}

theorem polyOffset_toNat (p : BufIdx) (hw : w < 512) : (polyOffset p w).toNat = 0x1000 + 0x800 * p.toNat + 4 * w := by
  rw [BitVec.toNat_ofNat]
  omega

theorem polyOffset_aligned (p : BufIdx) (hw : w < 512) : (polyOffset p w).toNat % 4 = 0 := by
  rw [polyOffset_toNat p hw]
  omega

theorem hostReg_polyOffset {npoly : Nat} (hp : p.toNat < npoly) (hw : w < 512) :
    hostReg npoly (polyOffset p w).toNat = .poly p.toNat w := by
  have hbuf : (0x1000 + 0x800 * p.toNat + 4 * w - 0x1000) / 0x800 = p.toNat := by omega
  have hpair : (0x1000 + 0x800 * p.toNat + 4 * w - 0x1000) % 0x800 / 4 = w := by omega
  rw [polyOffset_toNat p hw, hostReg, if_neg (by omega), if_neg (by omega), if_neg (by omega), if_neg (by omega),
    if_neg (by omega), if_neg (by omega), if_neg (by omega), if_neg (by omega), if_neg (by omega), if_neg (by omega),
    if_pos (by omega), hbuf, hpair]

theorem State.readReg_poly_of_idle (hp : p.toNat < s.cfg.npoly) (hw : w < 512) (h : s.status.busy = false) :
    s.readReg (polyOffset p w) = s.readPair p.toNat w := by
  rw [State.readReg, hostReg_polyOffset hp hw]
  simp only [h, Bool.false_eq_true, if_false]

theorem State.writeReg_poly_of_idle (hp : p.toNat < s.cfg.npoly) (hw : w < 512) (v : Word32)
    (h : s.status.busy = false) : s.writeReg (polyOffset p w) v = s.writePair p.toNat w v := by
  rw [State.writeReg, hostReg_polyOffset hp hw]
  simp only [h, Bool.false_eq_true, if_false]

theorem State.writeReg_poly_of_busy (hp : p.toNat < s.cfg.npoly) (hw : w < 512) (v : Word32)
    (h : s.status.busy = true) : s.writeReg (polyOffset p w) v = s := by
  rw [State.writeReg, hostReg_polyOffset hp hw]
  simp only [h, if_true]

end

end Sys2Proof.Machine
end

section
/-! The statements about host accesses and the POLY window (spec/20_memory.md R201, R203). -/
namespace Sys2Proof.Machine

/-- Settles O26: the access check is the condition of the statement, and decides between the two answers. -/
theorem busAccessShapes : Obligations.BusAccessShapes := by
  intro s a v rest
  rw [← Access.ok_iff, step_read, step_write]
  refine ⟨fun hbad => ⟨?_, ?_⟩, fun hok => ⟨⟨(s.atAccess rest).readReg a.offset, ?_⟩, _, rfl, ?_⟩⟩
  · rw [State.hostRead_of_not_ok _ _ hbad, State.atAccess]
  · rw [State.hostWrite_of_not_ok _ _ _ hbad, State.atAccess]
  · rw [State.hostRead_of_ok _ _ hok]
    rfl
  · rw [State.hostWrite_of_ok _ _ _ hok]

/-- Settles O27: the window's register rules, and a pair's words and bytes before and after it is written. -/
theorem polyWindow : Obligations.PolyWindow := by
  intro s p w v hwf hp hw
  have haligned := polyOffset_aligned p hw
  refine ⟨fun hidle => ⟨?_, (s.writePair p.toNat w v).mem, ?_, ?_, ?_, fun a ha => ?_⟩, fun hbusy => ?_⟩
  · refine readsAs_of_readReg haligned fun rest => ?_
    calc (s.atAccess rest).readReg (polyOffset p w)
        = (s.atAccess rest).readPair p.toNat w := State.readReg_poly_of_idle hp hw hidle
      _ = _ := State.readPair_eq_words (s := s.atAccess rest) hwf p hw
  · exact writesTo_of_writeReg haligned rfl fun rest =>
      State.writeReg_poly_of_idle (s := s.atAccess rest) hp hw v hidle
  · exact State.wordAt_writePair hwf p hw (j := 0) (by decide) v
  · exact State.wordAt_writePair hwf p hw (j := 1) (by decide) v
  · exact s.read_writePair_outside p.toNat w v ha
  · exact writesTo_of_writeReg haligned rfl fun rest =>
      State.writeReg_poly_of_busy (s := s.atAccess rest) hp hw v hbusy

end Sys2Proof.Machine
end

section
/-! SUPPORT. The opcode map of spec/30_encoding.md R303: every row compares all of OPC, and no two rows have the same
OPC, so that OPC alone selects the row (`rowOf`) and a decoded command tells the row it came from. -/
namespace Sys2Proof

variable {r r' : OpcodeRow} {w : Word32} {i : Instr}

/-! ## Rows and their opcodes -/

theorem opcodeTable_opcodes_nodup : (opcodeTable.map fun r => fieldOpc r.pattern).Nodup := by decide

theorem opcodeRow_eq_of_fieldOpc_eq (hr : r ∈ opcodeTable) (hr' : r' ∈ opcodeTable)
    (h : fieldOpc r.pattern = fieldOpc r'.pattern) : r = r' :=
  List.inj_on_of_nodup_map opcodeTable_opcodes_nodup hr hr' h

theorem mem_and_fieldOpc_of_rowOf {opc : BitVec 8} (h : rowOf opc = some r) :
    r ∈ opcodeTable ∧ fieldOpc r.pattern = opc := by
  rw [rowOf] at h
  have hopc := List.find?_some h
  exact ⟨List.mem_of_find?_eq_some h, beq_iff_eq.1 hopc⟩

theorem rowOf_eq_some_iff {opc : BitVec 8} :
    rowOf opc = some r ↔ r ∈ opcodeTable ∧ fieldOpc r.pattern = opc := by
  refine ⟨mem_and_fieldOpc_of_rowOf, ?_⟩
  rintro ⟨hr, rfl⟩
  cases hrow : rowOf (fieldOpc r.pattern) with
  | none => exact absurd BEq.rfl (List.find?_eq_none.1 hrow r hr)
  | some r' =>
    obtain ⟨hr', hopc⟩ := mem_and_fieldOpc_of_rowOf hrow
    rw [opcodeRow_eq_of_fieldOpc_eq hr' hr hopc]

/-! ## Words that match a row -/

theorem fieldOpc_mask : ∀ r ∈ opcodeTable, fieldOpc r.mask = BitVec.allOnes 8 := by decide

/-- A word that matches a row has the row's opcode. -/
theorem fieldOpc_eq_of_matches (hr : r ∈ opcodeTable) (h : w &&& r.mask = r.pattern) :
    fieldOpc w = fieldOpc r.pattern :=
  calc fieldOpc w = fieldOpc w &&& fieldOpc r.mask := by rw [fieldOpc_mask r hr, BitVec.and_allOnes]
    _ = fieldOpc (w &&& r.mask) := BitVec.extractLsb'_and.symm
    _ = fieldOpc r.pattern := by rw [h]

theorem decodeWord_eq_ok_iff :
    decodeWord w = .ok i ↔
      ∃ r ∈ opcodeTable, w &&& r.mask = r.pattern ∧ r.build (fieldRd w) (fieldRs1 w) (fieldRs2 w) = i := by
  constructor
  · intro h
    rw [decodeWord] at h
    split at h
    case h_1 => exact nomatch h
    case h_2 r hrow =>
      split at h
      case isTrue hmatch => exact ⟨r, (rowOf_eq_some_iff.1 hrow).1, hmatch, Except.ok.inj h⟩
      case isFalse => exact nomatch h
  · rintro ⟨r, hr, hmatch, rfl⟩
    rw [decodeWord, rowOf_eq_some_iff.2 ⟨hr, (fieldOpc_eq_of_matches hr hmatch).symm⟩]
    exact if_pos hmatch

/-! ## The row of a command -/

/-- A row's commands are encoded with the row's opcode. -/
theorem fieldOpc_encode_build (hr : r ∈ opcodeTable) (rd rs1 rs2 : BufIdx) :
    fieldOpc (encode (r.build rd rs1 rs2)) = fieldOpc r.pattern := by
  simp only [opcodeTable, List.mem_cons, List.not_mem_nil, or_false] at hr
  rcases hr with rfl | rfl | rfl | rfl | rfl | rfl | rfl | rfl | rfl | rfl | rfl | rfl <;>
    exact fieldOpc_assemble _ _ _ _

theorem opcodeRow_eq_of_build_eq (hr : r ∈ opcodeTable) (hr' : r' ∈ opcodeTable) {d d' a a' b b' : BufIdx}
    (h : r.build d a b = r'.build d' a' b') : r = r' :=
  opcodeRow_eq_of_fieldOpc_eq hr hr' <| by
    rw [← fieldOpc_encode_build hr d a b, h, fieldOpc_encode_build hr' d' a' b']

end Sys2Proof
end

section
/-! The statements about the opcode map and the worked encodings (spec/30_encoding.md R303, R307). -/
namespace Sys2Proof

/-- Settles O3: a decoded command's row is the row its word matches, and two rows that a word matches have the opcode
of that word. -/
theorem opcodeMapDecidesEveryWord : Obligations.OpcodeMapDecidesEveryWord := by
  refine ⟨rfl, fun r hr w => ⟨fun hmatch => ?_, fun hok => ?_⟩, fun r hr r' hr' w h h' => ?_⟩
  · exact decodeWord_eq_ok_iff.2 ⟨r, hr, hmatch, rfl⟩
  · obtain ⟨r', hr', hmatch, hbuild⟩ := decodeWord_eq_ok_iff.1 hok
    rwa [← opcodeRow_eq_of_build_eq hr' hr hbuild]
  · exact opcodeRow_eq_of_fieldOpc_eq hr hr'
      ((fieldOpc_eq_of_matches hr h).symm.trans (fieldOpc_eq_of_matches hr' h'))

/-- Settles O5: the encodings by definition, then the accepted and the refused words, each one run of the decoder. -/
theorem workedEncodings : Obligations.WorkedEncodings :=
  ⟨rfl, rfl, rfl, rfl,
    by decide, by decide, by decide, by decide,
    by decide, by decide, by decide⟩

end Sys2Proof
end

section
/-! SUPPORT. The encoding of a command without operands (spec/30_encoding.md R303). -/
namespace Sys2Proof

/-- A row that compares every bit of the word has its pattern as its one encoding (R303). -/
theorem decodeWord_eq_ok_iff_eq_pattern {r : OpcodeRow} (hr : r ∈ opcodeTable) (hmask : r.mask = BitVec.allOnes 32)
    (w : Word32) :
    decodeWord w = .ok (r.build (fieldRd w) (fieldRs1 w) (fieldRs2 w)) ↔ w = r.pattern := by
  obtain ⟨-, hmatch, -⟩ := opcodeMapDecidesEveryWord
  rw [← hmatch r hr w, hmask, BitVec.and_allOnes]

end Sys2Proof
end

section
/-! SUPPORT. The reductions in plain arithmetic (spec/40_reduction.md R403, R405, R407): what the widths and shifts
compute inside the input range, the congruence each reduction keeps, and its range. -/
namespace Sys2Proof.Machine

variable {a t : Nat}

theorem trunc_lt (n v : Nat) : trunc n v < 2 ^ n := Nat.mod_lt _ (Nat.two_pow_pos n)

theorem trunc_eq_self {n v : Nat} (h : v < 2 ^ n) : trunc n v = v := Nat.mod_eq_of_lt h

/-! ## Montgomery reduction (R402 to R404) -/

/-- QINV is −Q⁻¹ modulo R (R402), so the added multiple of Q clears the low 18 bits of the sum. -/
theorem R_dvd_montgomerySum (a : Nat) : R ∣ a + trunc 18 (a * QINV) * Q := by
  have hinv : QINV * Q + 1 = 576 * R := by norm_num
  refine Nat.modEq_zero_iff_dvd.1 ?_
  calc a + trunc 18 (a * QINV) * Q
      ≡ a + a * QINV * Q [MOD R] := ((Nat.mod_modEq (a * QINV) R).mul_right Q).add_left a
    _ = a * (QINV * Q + 1) := by ring
    _ = a * 576 * R := by rw [hinv, Nat.mul_assoc]
    _ ≡ 0 [MOD R] := Nat.modEq_zero_iff_dvd.2 (Nat.dvd_mul_left R _)

/-- The multiple of Q that is added is at most (2^18 − 1) Q. -/
theorem montgomeryMultiple_le (a : Nat) : trunc 18 (a * QINV) * Q ≤ 3221475327 :=
  Nat.mul_le_mul_right Q (Nat.le_pred_of_lt (trunc_lt 18 _))

/-- For a 32-bit input the quotient fits in 16 bits, so the final truncation of R403 keeps it. -/
theorem mr_eq_div (h : a < 2 ^ 32) : mr a = (a + trunc 18 (a * QINV) * Q) / 2 ^ 18 := by
  have hmul := montgomeryMultiple_le a
  rw [mr, Nat.shiftRight_eq_div_pow]
  exact trunc_eq_self (by omega)

theorem mr_mul_R (h : a < 2 ^ 32) : mr a * R = a + trunc 18 (a * QINV) * Q := by
  rw [mr_eq_div h]
  exact Nat.div_mul_cancel (R_dvd_montgomerySum a)

theorem mr_mul_R_mod_Q (h : a < 2 ^ 32) : mr a * R % Q = a % Q := by
  rw [mr_mul_R h, Nat.add_mul_mod_self_right]

theorem mr_le_div_add_Q (h : a < 2 ^ 32) : mr a ≤ a / 2 ^ 18 + Q := by
  have hmul := montgomeryMultiple_le a
  have hQ : Q = 12289 := rfl
  rw [mr_eq_div h]
  omega

theorem mr_le (h : a < 2 ^ 32) : mr a ≤ 28672 := by
  have hmr : mr a ≤ a / 2 ^ 18 + 12289 := mr_le_div_add_Q h
  omega

theorem mr_lt_two_mul_Q (h : a < 2 ^ 32) (hlt : a < 2 ^ 18 * Q) : mr a < 2 * Q := by
  have hmr := mr_le_div_add_Q h
  omega

/-- Up to this bound the sum of R403 fits in 32 bits (R404). -/
theorem trunc_montgomerySum (h : a ≤ 1073491968) :
    trunc 32 (a + trunc 18 (a * QINV) * Q) = a + trunc 18 (a * QINV) * Q := by
  have hmul := montgomeryMultiple_le a
  exact trunc_eq_self (by omega)

/-! ## Barrett and full reduction (R405 to R407) -/

/-- 5 Q ≤ 2^16, so the estimated quotient is never too large and the subtraction of R405 is not cut at 0. -/
theorem br_add_mul_Q (a : Nat) : br a + a * 5 / 2 ^ 16 * Q = a := by
  rw [br, Nat.shiftRight_eq_div_pow]
  have hle : a * 5 / 2 ^ 16 * 12289 ≤ a := by omega
  exact Nat.sub_add_cancel hle

theorem br_mod_Q (a : Nat) : br a % Q = a % Q := by
  conv_rhs => rw [← br_add_mul_Q a, Nat.add_mul_mod_self_right]

theorem br_le (h : a < 2 ^ 16) : br a ≤ 16379 := by
  have hbr : br a + a * 5 / 2 ^ 16 * 12289 = a := br_add_mul_Q a
  omega

theorem br_eq_self (h : a ≤ 13107) : br a = a := by
  have hbr : br a + a * 5 / 2 ^ 16 * 12289 = a := br_add_mul_Q a
  omega

theorem subQ_eq_mod (h : t < 2 * Q) : subQ t = t % Q := by
  rw [subQ]
  split
  case isTrue hle => rw [Nat.mod_eq_sub_mod hle, Nat.mod_eq_of_lt (by omega)]
  case isFalse hlt => exact (Nat.mod_eq_of_lt (not_le.1 hlt)).symm

/-- One subtraction of Q is enough after BR, whose result is below 2Q. -/
theorem canon16_eq_mod (h : a < 2 ^ 16) : canon16 a = a % Q := by
  have hlt : br a < 2 * Q := (br_le h).trans_lt (by norm_num)
  rw [canon16, subQ_eq_mod hlt, br_mod_Q]

/-! ## The scalar commands (R410, R411) -/

theorem exec_smont (s : State) : exec .smont s = .next (s.finishScalar (mr s.sopa.toNat)) := rfl

theorem exec_sbarr (s : State) : exec .sbarr s = .next (s.finishScalar (br s.scalar16)) := rfl

/-- A scalar result changes SRES, reports completion, and leaves everything else. -/
theorem State.finishScalar_frame (s : State) (r : Nat) :
    s.finishScalar r =
      { s with sres := (s.finishScalar r).sres, status := doneStatus s.status, eng := .idle } := rfl

theorem State.finishScalar_sres_toNat (s : State) {r : Nat} (h : r < 2 ^ 16) :
    (s.finishScalar r).sres.toNat = r := by
  rw [State.finishScalar_sres, BitVec.toNat_ofNat, Nat.mod_eq_of_lt h]

theorem State.scalar16_eq_mod (s : State) : s.scalar16 = s.sopa.toNat % 2 ^ 16 := by
  rw [State.scalar16, BitVec.extractLsb'_toNat, Nat.shiftRight_zero]

end Sys2Proof.Machine
end

section
/-! The statements about the reductions, SMONT and SBARR (spec/40_reduction.md R404, R406, R407, R410, R411). -/
namespace Sys2Proof.Machine

/-- Settles O30: the exact quotient gives the congruence and the bounds; the spot values are computed. -/
theorem montgomeryReduction : Obligations.MontgomeryReduction := by
  refine ⟨fun a h => ⟨mr_mul_R_mod_Q h, mr_le_div_add_Q h, mr_le h, mr_lt_two_mul_Q h⟩, by decide, fun a h => ?_,
    by decide⟩
  rw [trunc_montgomerySum h, mr_eq_div (h.trans_lt (by norm_num))]

/-- Settles O31: BR subtracts a multiple of Q that does not exceed its input, and CANON16 finishes the reduction. -/
theorem barrettAndFullReduction : Obligations.BarrettAndFullReduction := by
  refine ⟨fun a h => ⟨br_mod_Q a, br_le h, br_eq_self, fun hlt => ?_⟩, by decide, by decide, fun a h => canon16_eq_mod h⟩
  rwa [br_eq_self (hlt.le.trans (by norm_num))]

/-- Settles O32: SRES holds MR(SOPA), which the properties of MR describe. -/
theorem smontResult : Obligations.SmontResult := by
  refine ⟨fun s => ⟨s.finishScalar (mr s.sopa.toNat), exec_smont s, s.finishScalar_frame _, ?_⟩,
    decodeWord_eq_ok_iff_eq_pattern (r := ⟨0x01000000, 0xFFFFFFFF, fun _ _ _ => .smont⟩) (by simp [opcodeTable]) rfl⟩
  have hsopa : s.sopa.toNat < 2 ^ 32 := s.sopa.isLt
  have hsres : (s.finishScalar (mr s.sopa.toNat)).sres.toNat = mr s.sopa.toNat :=
    s.finishScalar_sres_toNat ((mr_le hsopa).trans_lt (by norm_num))
  rw [hsres]
  refine ⟨mr_eq_div hsopa, mr_mul_R_mod_Q hsopa, mr_le hsopa, fun h => ?_, fun h => ?_⟩
  · rw [State.finishScalar_sres, h]
    decide
  · rw [State.finishScalar_sres, h]
    decide

/-- Settles O33: SRES holds BR of the low half of SOPA, and the corner cases are computed. -/
theorem sbarrResult : Obligations.SbarrResult := by
  refine ⟨fun s => ⟨s.finishScalar (br s.scalar16), exec_sbarr s, s.finishScalar_frame _, ?_⟩,
    decodeWord_eq_ok_iff_eq_pattern (r := ⟨0x02000000, 0xFFFFFFFF, fun _ _ _ => .sbarr⟩) (by simp [opcodeTable]) rfl⟩
  have hlow : s.scalar16 < 2 ^ 16 := BitVec.isLt _
  have hsres : (s.finishScalar (br s.scalar16)).sres.toNat = br s.scalar16 :=
    s.finishScalar_sres_toNat ((br_le hlow).trans_lt (by norm_num))
  have hcase : ∀ v r : Nat, s.sopa = BitVec.ofNat 32 v → br (v % 2 ^ 32 % 2 ^ 16) = r →
      (s.finishScalar (br s.scalar16)).sres = BitVec.ofNat 16 r := by
    rintro v r h rfl
    rw [State.finishScalar_sres, s.scalar16_eq_mod, h, BitVec.toNat_ofNat]
  refine ⟨?_, fun h => hcase 0 0 h rfl, fun h => hcase 12289 12289 h rfl, fun h => hcase 13108 819 h rfl,
    fun h => hcase 65535 16379 h rfl, fun h => hcase 0x00010005 5 h rfl, fun h => hcase 26214 13925 h rfl⟩
  have hbr : br s.scalar16 + s.scalar16 * 5 / 2 ^ 16 * 12289 = s.scalar16 := br_add_mul_Q _
  rw [hsres, ← s.scalar16_eq_mod]
  omega

end Sys2Proof.Machine
end

section
/-! SUPPORT. The words of a list one by one (`wordAt`), for the list operations the transforms are made of. -/
namespace Sys2Proof.Machine

variable {a b : List Nat} {i n : Nat}

theorem wordAt_eq_getElem (h : i < a.length) : wordAt a i = a[i] := by
  rw [wordAt, List.getD_eq_getElem _ _ h]

theorem wordAt_of_getElem? {x : Nat} (h : a[i]? = some x) : wordAt a i = x := by
  rw [wordAt, List.getD_eq_getElem?_getD, h, Option.getD_some]

/-- Lists of one length are equal when their words are. -/
theorem eq_of_wordAt (hlen : a.length = b.length) (h : ∀ i < a.length, wordAt a i = wordAt b i) : a = b := by
  refine List.ext_getElem hlen fun i ha hb => ?_
  rw [← wordAt_eq_getElem ha, h i ha, wordAt_eq_getElem hb]

theorem wordAt_map_range (f : Nat → Nat) (h : i < n) : wordAt ((List.range n).map f) i = f i := by
  rw [wordAt_eq_getElem (by simpa using h), List.getElem_map, List.getElem_range]

theorem wordAt_map (f : Nat → Nat) (h : i < a.length) : wordAt (a.map f) i = f (wordAt a i) := by
  rw [wordAt_eq_getElem (by simpa using h), List.getElem_map, wordAt_eq_getElem h]

theorem wordAt_zipWith (f : Nat → Nat → Nat) (ha : i < a.length) (hb : i < b.length) :
    wordAt (List.zipWith f a b) i = f (wordAt a i) (wordAt b i) := by
  rw [wordAt_eq_getElem (by simpa using ⟨ha, hb⟩), List.getElem_zipWith, wordAt_eq_getElem ha, wordAt_eq_getElem hb]

theorem wordAt_take (h : i < n) : wordAt (a.take n) i = wordAt a i := by
  rw [wordAt, wordAt, List.getD_eq_getElem?_getD, List.getD_eq_getElem?_getD, List.getElem?_take_of_lt h]

theorem wordAt_mem (h : i < a.length) : wordAt a i ∈ a := by
  rw [wordAt_eq_getElem h]
  exact List.getElem_mem h

/-- A bound on the words holds past the end too, where the word is 0. -/
theorem wordAt_le_of_forall_mem {c : Nat} (h : ∀ x ∈ a, x ≤ c) (i : Nat) : wordAt a i ≤ c := by
  rcases Nat.lt_or_ge i a.length with hi | hi
  · exact h _ (wordAt_mem hi)
  · rw [wordAt, List.getD_eq_default _ _ hi]
    exact Nat.zero_le c

theorem forall_mem_of_wordAt {p : Nat → Prop} (h : ∀ i < a.length, p (wordAt a i)) : ∀ x ∈ a, p x := by
  intro x hx
  obtain ⟨i, hi, rfl⟩ := List.getElem_of_mem hx
  rw [← wordAt_eq_getElem hi]
  exact h i hi

end Sys2Proof.Machine
end

section
/-! SUPPORT. Bit reversal (spec/41_ntt.md R503): its bits, that it is an involution, and what it makes of an index split
into a high and a low part. -/
namespace Sys2Proof.Machine

theorem bitrev_lt (n i : Nat) : bitrev n i < 2 ^ n := by
  induction n generalizing i with
  | zero => exact Nat.one_pos
  | succ n ih =>
    have hrest := ih (i % 2 ^ n)
    have hbit : i / 2 ^ n % 2 < 2 := Nat.mod_lt _ Nat.two_pos
    rw [bitrev, Nat.pow_succ]
    omega

theorem bitrev_lt_1024 (i : Nat) : bitrev 10 i < 1024 := bitrev_lt 10 i

theorem testBit_bitrev {n b : Nat} (i : Nat) (hb : b < n) : (bitrev n i).testBit b = i.testBit (n - 1 - b) := by
  induction n generalizing i b with
  | zero => exact absurd hb (Nat.not_lt_zero b)
  | succ n ih =>
    rw [bitrev]
    cases b with
    | zero =>
      rw [Nat.testBit_zero, Nat.mul_add_mod, Nat.mod_mod, Nat.testBit_eq_decide_div_mod_eq]
      simp
    | succ b =>
      have hbit : i / 2 ^ n % 2 / 2 = 0 := Nat.div_eq_of_lt (Nat.mod_lt _ Nat.two_pos)
      have hlow : n - 1 - b < n := by omega
      rw [Nat.testBit_succ, Nat.mul_add_div Nat.two_pos, hbit, Nat.add_zero, ih _ (by omega), Nat.testBit_mod_two_pow,
        show n + 1 - 1 - (b + 1) = n - 1 - b by omega]
      simp [hlow]

theorem bitrev_bitrev {n i : Nat} (hi : i < 2 ^ n) : bitrev n (bitrev n i) = i := by
  refine Nat.eq_of_testBit_eq fun b => ?_
  rcases Nat.lt_or_ge b n with hb | hb
  · rw [testBit_bitrev _ hb, testBit_bitrev _ (by omega), show n - 1 - (n - 1 - b) = b by omega]
  · have hpow : 2 ^ n ≤ 2 ^ b := Nat.pow_le_pow_right Nat.two_pos hb
    rw [Nat.testBit_lt_two_pow ((bitrev_lt n _).trans_le hpow), Nat.testBit_lt_two_pow (hi.trans_le hpow)]

theorem bitrev_zero_right (n : Nat) : bitrev n 0 = 0 := by
  induction n with
  | zero => rfl
  | succ n ih => rw [bitrev, Nat.zero_mod, ih, Nat.zero_div]

/-- Only the n low bits of an index count. -/
theorem bitrev_mod_two_pow (n i : Nat) : bitrev n (i % 2 ^ n) = bitrev n i := by
  cases n with
  | zero => rfl
  | succ n =>
    rw [bitrev, bitrev, Nat.mod_mod_of_dvd _ (Nat.pow_dvd_pow 2 (Nat.le_succ n)), Nat.pow_succ, Nat.mod_mul,
      Nat.add_mul_div_left _ _ (Nat.two_pow_pos n), Nat.div_eq_of_lt (Nat.mod_lt i (Nat.two_pow_pos n)),
      Nat.zero_add, Nat.mod_mod]

/-- The m low bits of an index come out reversed at the top, above its reversed high part. -/
theorem bitrev_add (m n u : Nat) {v : Nat} (hv : v < 2 ^ m) :
    bitrev (m + n) (2 ^ m * u + v) = 2 ^ n * bitrev m v + bitrev n u := by
  induction n generalizing u with
  | zero =>
    calc bitrev m (2 ^ m * u + v) = bitrev m ((2 ^ m * u + v) % 2 ^ m) := (bitrev_mod_two_pow m _).symm
      _ = bitrev m v := by rw [Nat.mul_add_mod, Nat.mod_eq_of_lt hv]
      _ = 2 ^ 0 * bitrev m v + bitrev 0 u := by rw [bitrev, Nat.pow_zero, Nat.one_mul, Nat.add_zero]
  | succ n ih =>
    have hlow : (2 ^ m * u + v) % 2 ^ (m + n) = 2 ^ m * (u % 2 ^ n) + v := by
      rw [Nat.pow_add, Nat.mod_mul, Nat.mul_add_mod, Nat.mod_eq_of_lt hv, Nat.mul_add_div (Nat.two_pow_pos m),
        Nat.div_eq_of_lt hv, Nat.add_zero, Nat.add_comm]
    have hhigh : (2 ^ m * u + v) / 2 ^ (m + n) = u / 2 ^ n := by
      rw [Nat.pow_add, ← Nat.div_div_eq_div_mul, Nat.mul_add_div (Nat.two_pow_pos m), Nat.div_eq_of_lt hv,
        Nat.add_zero]
    rw [← Nat.add_assoc, bitrev, hlow, hhigh, ih, bitrev, Nat.pow_succ]
    ring

/-- BITREV10 of an index below 512 is twice BITREV9 of it (R502). -/
theorem bitrev_ten_of_lt {k : Nat} (h : k < 512) : bitrev 10 k = 2 * bitrev 9 k := by
  rw [bitrev, Nat.mod_eq_of_lt (show k < 2 ^ 9 from h), Nat.div_eq_of_lt (show k < 2 ^ 9 from h), Nat.zero_mod,
    Nat.add_zero]

/-- The exponent arithmetic behind one level of NET: BITREV10 of index q of half c of block k, times the distance 2^L of
the level, is 512 c + BITREV9(k), up to a multiple of 1024. -/
theorem two_pow_mul_bitrev {L j k c q : Nat} (hL : L + j = 9) (hk : k < 2 ^ j) (hc : c < 2) (hq : q < 2 ^ L) :
    2 ^ L * bitrev 10 (2 ^ L * (2 * k + c) + q) = 1024 * bitrev L q + 512 * c + bitrev 9 k := by
  have hindex : bitrev 10 (2 ^ L * (2 * k + c) + q) = 2 ^ (j + 1) * bitrev L q + (2 ^ j * c + bitrev j k) := by
    have hhalf : bitrev (j + 1) (2 * k + c) = 2 ^ j * c + bitrev j k := by
      have hbit : bitrev 1 c = c := by interval_cases c <;> rfl
      rw [Nat.add_comm j 1, show 2 * k + c = 2 ^ 1 * k + c by ring, bitrev_add 1 j k hc, hbit]
    rw [show 10 = L + (j + 1) by omega, bitrev_add L (j + 1) _ hq, hhalf]
  have htwiddle : bitrev 9 k = 2 ^ L * bitrev j k := by
    have h := bitrev_add j L 0 hk
    rwa [Nat.mul_zero, Nat.zero_add, bitrev_zero_right, Nat.add_zero, show j + L = 9 by omega] at h
  have hpow : 2 ^ L * 2 ^ j = 512 := by rw [← Nat.pow_add, hL]
  calc 2 ^ L * bitrev 10 (2 ^ L * (2 * k + c) + q)
      = 2 * (2 ^ L * 2 ^ j) * bitrev L q + 2 ^ L * 2 ^ j * c + 2 ^ L * bitrev j k := by rw [hindex]; ring
    _ = 1024 * bitrev L q + 512 * c + bitrev 9 k := by rw [hpow, htwiddle]

/-! ## PERMUTE -/

theorem wordAt_permute {a : List Nat} (h : a.length = 1024) {i : Nat} (hi : i < 1024) :
    wordAt (permute a) i = wordAt a (bitrev 10 i) := by
  rw [wordAt, List.getD_eq_getElem?_getD, permute_getElem? a h hi, wordAt, List.getD_eq_getElem?_getD]

theorem permute_permute {a : List Nat} (h : a.length = 1024) : permute (permute a) = a := by
  refine eq_of_wordAt (by rw [permute_length, permute_length]) fun i hi => ?_
  rw [permute_length, permute_length, h] at hi
  rw [wordAt_permute (by rw [permute_length, h]) hi, wordAt_permute h (bitrev_lt_1024 i), bitrev_bitrev hi]

theorem permute_map (f : Nat → Nat) {a : List Nat} (h : a.length = 1024) : permute (a.map f) = (permute a).map f := by
  refine eq_of_wordAt (by simp) fun i hi => ?_
  have hi : i < 1024 := by simpa [h] using hi
  have hrev : bitrev 10 i < a.length := by rw [h]; exact bitrev_lt_1024 i
  rw [wordAt_permute (by simpa using h) hi, wordAt_map f hrev, wordAt_map f (by simpa [h] using hi),
    wordAt_permute h hi]

theorem isBuffer_permute {a : List Nat} (h : isBuffer a) : isBuffer (permute a) := by
  obtain ⟨hlen, hlt⟩ := h
  refine ⟨by rw [permute_length, hlen], forall_mem_of_wordAt fun i hi => ?_⟩
  rw [permute_length, hlen] at hi
  rw [wordAt_permute hlen hi]
  exact hlt _ (wordAt_mem (by rw [hlen]; exact bitrev_lt_1024 i))

end Sys2Proof.Machine
end

section
/-! The statement about bit reversal (spec/41_ntt.md R503). -/
namespace Sys2Proof.Machine

/-- Settles O40: bit reversal has the bits it is named for, and so undoes itself; PERMUTE reads through it. -/
theorem bitReversal : Obligations.BitReversal := by
  refine ⟨fun i _ b hb => testBit_bitrev i hb, fun i _ => bitrev_lt_1024 i, fun k _ b hb => testBit_bitrev k hb,
    fun k _ => bitrev_lt 9 k, fun a h i hi => wordAt_permute h hi, fun a h => permute_permute h, ?_⟩
  exact ⟨rfl, rfl, rfl, rfl⟩

end Sys2Proof.Machine
end

section
/-! SUPPORT. The default table ROM (spec/41_ntt.md R502): its entries by their formulas, and below Q. -/
namespace Sys2Proof.Machine

theorem tPsiBr_length : tPsiBr.length = 1024 := romPsiBr_length .standard
theorem tOmega_length : tOmega.length = 512 := romOmega_length .standard
theorem tOmegaInv_length : tOmegaInv.length = 512 := romOmegaInv_length .standard
theorem tPsiInv_length : tPsiInv.length = 1024 := romPsiInv_length .standard

theorem wordAt_tPsiBr {p : Nat} (h : p < 1024) : wordAt tPsiBr p = R * PSI ^ bitrev 10 p % Q := wordAt_map_range _ h
theorem wordAt_tOmega {k : Nat} (h : k < 512) : wordAt tOmega k = R * OMEGA ^ bitrev 9 k % Q := wordAt_map_range _ h
theorem wordAt_tOmegaInv {k : Nat} (h : k < 512) : wordAt tOmegaInv k = R * OMEGA_INV ^ bitrev 9 k % Q :=
  wordAt_map_range _ h
theorem wordAt_tPsiInv {m : Nat} (h : m < 1024) : wordAt tPsiInv m = R * NINV * PSI_INV ^ m % Q :=
  wordAt_map_range _ h

/-- OMEGA is PSI², and BITREV10 of an index below 512 is even: T_OMEGA is the first half of T_PSI_BR (R502). -/
theorem wordAt_tOmega_eq_tPsiBr {k : Nat} (h : k < 512) : wordAt tOmega k = wordAt tPsiBr k := by
  rw [wordAt_tOmega h, wordAt_tPsiBr (by omega), bitrev_ten_of_lt h, show OMEGA = PSI ^ 2 from rfl, ← pow_mul]

theorem tablesBelowQ_standard : TablesBelowQ .standard := by
  have hmod : ∀ (f : Nat → Nat) (n : Nat), ∀ x ∈ (List.range n).map fun i => f i % Q, x < Q := by
    intro f n x hx
    obtain ⟨i, -, rfl⟩ := List.mem_map.1 hx
    exact Nat.mod_lt _ (by decide)
  exact ⟨hmod _ _, hmod _ _, hmod _ _, hmod _ _⟩

theorem tPsiBr_lt_Q : ∀ x ∈ tPsiBr, x < Q := tablesBelowQ_standard.psiBr
theorem tOmega_lt_Q : ∀ x ∈ tOmega, x < Q := tablesBelowQ_standard.omega
theorem tOmegaInv_lt_Q : ∀ x ∈ tOmegaInv, x < Q := tablesBelowQ_standard.omegaInv
theorem tPsiInv_lt_Q : ∀ x ∈ tPsiInv, x < Q := tablesBelowQ_standard.psiInv

/-- The checksum of R502: the sum of (i + 1) T[i], modulo 2^32. -/
def tableChecksum (t : List Nat) : Nat :=
  ((List.range t.length).map fun i => (i + 1) * wordAt t i).sum % 2 ^ 32

/-- The checksum of a table given by a formula, without the table: a form that evaluates each entry once. -/
theorem tableChecksum_map_range (f : Nat → Nat) (n : Nat) :
    tableChecksum ((List.range n).map f) = ((List.range n).map fun i => (i + 1) * f i).sum % 2 ^ 32 := by
  have hterm : ∀ i ∈ List.range n, (i + 1) * wordAt ((List.range n).map f) i = (i + 1) * f i := fun i hi => by
    rw [wordAt_map_range f (List.mem_range.1 hi)]
  rw [tableChecksum, List.length_map, List.length_range, List.map_congr_left hterm]

theorem tableChecksum_tPsiBr : tableChecksum tPsiBr = 3222361213 :=
  (tableChecksum_map_range _ _).trans (by decide +kernel)

theorem tableChecksum_tOmega : tableChecksum tOmega = 816503085 :=
  (tableChecksum_map_range _ _).trans (by decide +kernel)

theorem tableChecksum_tOmegaInv : tableChecksum tOmegaInv = 805661967 :=
  (tableChecksum_map_range _ _).trans (by decide +kernel)

theorem tableChecksum_tPsiInv : tableChecksum tPsiInv = 3343788416 :=
  (tableChecksum_map_range _ _).trans (by decide +kernel)

theorem tables_checksums :
    [tPsiBr, tOmega, tOmegaInv, tPsiInv].map tableChecksum = [3222361213, 816503085, 805661967, 3343788416] := by
  rw [List.map_cons, List.map_cons, List.map_cons, List.map_cons, List.map_nil, tableChecksum_tPsiBr,
    tableChecksum_tOmega, tableChecksum_tOmegaInv, tableChecksum_tPsiInv]

end Sys2Proof.Machine
end

section
/-! The statement about the default table ROM (spec/41_ntt.md R502). -/
namespace Sys2Proof.Machine

/-- Settles O41: the entries by their formulas; the printed spot values and checksums are computed. -/
theorem standardTables : Obligations.StandardTables := by
  refine ⟨tablesBelowQ_standard, tPsiBr_length, tOmega_length, tOmegaInv_length, tPsiInv_length,
    fun p hp => wordAt_tPsiBr hp, fun k hk => wordAt_tOmega hk, fun k hk => wordAt_tOmegaInv hk,
    fun m hm => wordAt_tPsiInv hm, ?_, ?_, ?_, ?_, tables_checksums, ?_, ?_, ?_, ?_, ?_, ?_, ?_, ?_,
    fun k hk => wordAt_tOmega_eq_tPsiBr hk⟩ <;> decide +kernel

end Sys2Proof.Machine
end

section
/-! SUPPORT. The datapath modulo Q (spec/41_ntt.md R504, R505): what a Montgomery product, MULC and a butterfly are in
Z_Q, and their ranges. -/
namespace Sys2Proof.Machine

/-! ## Montgomery products -/

/-- Montgomery reduction of R z is z, modulo Q (R402, R403). -/
theorem mr_cast {a : Nat} {z : ZMod Q} (h : a < 2 ^ 32) (ha : (a : ZMod Q) = (R : Nat) * z) : (mr a : ZMod Q) = z := by
  have hR : IsUnit ((R : Nat) : ZMod Q) := (ZMod.isUnit_iff_coprime R Q).2 (by norm_num)
  have hmr : ((mr a * R : Nat) : ZMod Q) = (a : Nat) := (ZMod.natCast_eq_natCast_iff' _ _ Q).2 (mr_mul_R_mod_Q h)
  rw [Nat.cast_mul, ha, mul_comm] at hmr
  exact hR.mul_left_cancel hmr

theorem word_mul_entry_le {x t : Nat} (hx : x < 2 ^ 16) (ht : t < Q) : x * t ≤ 805294080 :=
  Nat.mul_le_mul (Nat.le_of_lt_succ hx) (Nat.le_of_lt_succ ht)

/-- A word times a table entry below Q stays below 15361 (R510). -/
theorem mr_mul_le {x t : Nat} (hx : x < 2 ^ 16) (ht : t < Q) : mr (x * t) ≤ 15360 := by
  have hprod := word_mul_entry_le hx ht
  have hmr : mr (x * t) ≤ x * t / 2 ^ 18 + 12289 := mr_le_div_add_Q (by omega)
  omega

/-- A table holds R t in the place of t, so that a word times the entry is reduced to the word times t (R504). -/
theorem mr_mul_cast {x t : Nat} {z : ZMod Q} (hx : x < 2 ^ 16) (ht : t < Q) (hz : (t : ZMod Q) = (R : Nat) * z) :
    (mr (x * t) : ZMod Q) = x * z := by
  have hprod := word_mul_entry_le hx ht
  exact mr_cast (by omega) (by rw [Nat.cast_mul, hz, mul_left_comm])

/-! ## The butterfly (R505), on words of at most 32766 -/

section
variable {x y w : Nat} {z : ZMod Q}

theorem butterflySum_cast (odd : Bool) (hx : x ≤ 32766) (hy : y ≤ 32766) :
    (butterflySum odd x y : ZMod Q) = x + y := by
  have hsum : trunc 16 (x + y) = x + y := trunc_eq_self (by omega)
  rw [butterflySum, hsum, ← Nat.cast_add]
  cases odd with
  | false => rfl
  | true => exact (ZMod.natCast_eq_natCast_iff' _ _ Q).2 (br_mod_Q _)

/-- 3Q = 36867 covers the word that is subtracted, so that the difference is not cut at 0 and does not wrap. -/
theorem butterflyDiff_add (hx : x ≤ 32766) (hy : y ≤ 32766) : butterflyDiff x y + y = x + 36867 := by
  have h : butterflyDiff x y = (2 ^ 32 + (x + 36867) - y) % 2 ^ 32 := rfl
  omega

theorem butterflyDiff_cast (hx : x ≤ 32766) (hy : y ≤ 32766) : (butterflyDiff x y : ZMod Q) = x - y := by
  have h : ((butterflyDiff x y + y : Nat) : ZMod Q) = ((x + 3 * Q : Nat) : ZMod Q) :=
    congrArg _ (butterflyDiff_add hx hy)
  rw [Nat.cast_add, Nat.cast_add, Nat.cast_mul, ZMod.natCast_self, mul_zero, add_zero] at h
  exact eq_sub_of_add_eq h

theorem mul_butterflyDiff_le (hx : x ≤ 32766) (hy : y ≤ 32766) (hw : w < Q) :
    w * butterflyDiff x y ≤ 12288 * 69633 := by
  have h := butterflyDiff_add hx hy
  exact Nat.mul_le_mul (Nat.le_of_lt_succ hw) (by omega)

theorem butterflyTwiddle_eq (hx : x ≤ 32766) (hy : y ≤ 32766) (hw : w < Q) :
    butterflyTwiddle w x y = mr (w * butterflyDiff x y) := by
  have h := mul_butterflyDiff_le hx hy hw
  rw [butterflyTwiddle, trunc_eq_self (by omega)]

theorem butterflyTwiddle_cast (hx : x ≤ 32766) (hy : y ≤ 32766) (hw : w < Q) (hz : (w : ZMod Q) = (R : Nat) * z) :
    (butterflyTwiddle w x y : ZMod Q) = z * (x - y) := by
  have h := mul_butterflyDiff_le hx hy hw
  rw [butterflyTwiddle_eq hx hy hw]
  exact mr_cast (by omega) (by rw [Nat.cast_mul, hz, butterflyDiff_cast hx hy, mul_assoc])

theorem butterflyTwiddle_le (hx : x ≤ 32766) (hy : y ≤ 32766) (hw : w < Q) : butterflyTwiddle w x y ≤ 15553 := by
  have h := mul_butterflyDiff_le hx hy hw
  have hmr : mr (w * butterflyDiff x y) ≤ w * butterflyDiff x y / 2 ^ 18 + 12289 := mr_le_div_add_Q (by omega)
  rw [butterflyTwiddle_eq hx hy hw]
  omega

end

/-! ## The range of a level (R506) -/

/-- The words before level `lvl`: at most 16383 before an even level, and twice that before an odd one, since an even
level does not reduce its sums. -/
def levelBound (lvl : Nat) : Nat := if lvl % 2 = 0 then 16383 else 32766

theorem levelBound_le (lvl : Nat) : levelBound lvl ≤ 32766 := by
  rw [levelBound]
  split <;> omega

theorem butterflySum_le {lvl x y : Nat} (hx : x ≤ levelBound lvl) (hy : y ≤ levelBound lvl) :
    butterflySum (lvl % 2 == 1) x y ≤ levelBound (lvl + 1) := by
  rw [levelBound] at hx hy ⊢
  rcases Nat.mod_two_eq_zero_or_one lvl with heven | hodd
  · rw [if_pos heven] at hx hy
    rw [if_neg (by omega), heven, butterflySum]
    exact (Nat.mod_le _ _).trans (by omega)
  · rw [if_pos (by omega), hodd, butterflySum]
    exact (br_le (trunc_lt 16 _)).trans (by norm_num)

theorem butterflyTwiddle_le_levelBound {lvl x y w : Nat} (hx : x ≤ levelBound lvl) (hy : y ≤ levelBound lvl)
    (hw : w < Q) : butterflyTwiddle w x y ≤ levelBound (lvl + 1) := by
  have h := butterflyTwiddle_le (hx.trans (levelBound_le lvl)) (hy.trans (levelBound_le lvl)) hw
  rw [levelBound]
  split <;> omega

end Sys2Proof.Machine
end

section
/-! SUPPORT. The butterfly network in Z_Q (spec/41_ntt.md R505 to R507): after L levels position 2^L u + v holds the
transform, at v, of the words of block u of 2^L words. -/
namespace Sys2Proof.Machine

/-! ## A level by blocks -/

section
variable {odd : Bool} {d k v : Nat} {tw a : List Nat}

theorem wordAt_netLevel_low (hv : v < d) (h : a.length = 2 * d * tw.length) (hk : k < tw.length) :
    wordAt (netLevel odd d tw a) (d * (2 * k) + v)
      = butterflySum odd (wordAt a (d * (2 * k) + v)) (wordAt a (d * (2 * k + 1) + v)) := by
  have hnext : d * (2 * k + 1) + v = d * (2 * k) + v + d := by ring
  have hx : d * (2 * k) + v < a.length := by
    have hblock : 2 * d * (k + 1) ≤ 2 * d * tw.length := Nat.mul_le_mul_left _ hk
    rw [h]
    linarith
  have hmod : (d * (2 * k) + v) % (2 * d) = v := by
    rw [show d * (2 * k) = 2 * d * k by ring, Nat.mul_add_mod, Nat.mod_eq_of_lt (by omega)]
  have hlevel := netLevel_getElem? odd d (by omega) tw a h hx
  rw [hmod, if_pos hv] at hlevel
  rw [wordAt_of_getElem? hlevel, hnext]
  rfl

theorem wordAt_netLevel_high (hv : v < d) (h : a.length = 2 * d * tw.length) (hk : k < tw.length) :
    wordAt (netLevel odd d tw a) (d * (2 * k + 1) + v)
      = butterflyTwiddle (wordAt tw k) (wordAt a (d * (2 * k) + v)) (wordAt a (d * (2 * k + 1) + v)) := by
  have hsplit : d * (2 * k + 1) + v = 2 * d * k + (d + v) := by ring
  have hprev : d * (2 * k + 1) + v - d = d * (2 * k) + v := by
    rw [show d * (2 * k + 1) + v = d * (2 * k) + v + d by ring, Nat.add_sub_cancel]
  have hx : d * (2 * k + 1) + v < a.length := by
    have hblock : 2 * d * (k + 1) ≤ 2 * d * tw.length := Nat.mul_le_mul_left _ hk
    rw [h]
    linarith
  have hmod : (d * (2 * k + 1) + v) % (2 * d) = d + v := by
    rw [hsplit, Nat.mul_add_mod, Nat.mod_eq_of_lt (by omega)]
  have hdiv : (d * (2 * k + 1) + v) / (2 * d) = k := by
    rw [hsplit, Nat.mul_add_div (by omega), Nat.div_eq_of_lt (by omega), Nat.add_zero]
  have hlevel := netLevel_getElem? odd d (by omega) tw a h hx
  rw [hmod, if_neg (by omega), hdiv, hprev] at hlevel
  rw [wordAt_of_getElem? hlevel]
  rfl

/-- Every position of n blocks of 2d words is the lower or the upper one of a butterfly. -/
theorem exists_butterfly_position {n x : Nat} (hd : 0 < d) (hx : x < 2 * d * n) :
    ∃ k < n, ∃ v < d, x = d * (2 * k) + v ∨ x = d * (2 * k + 1) + v := by
  have hdiv : 2 * d * (x / (2 * d)) + x % (2 * d) = x := Nat.div_add_mod x (2 * d)
  have hmod : x % (2 * d) < 2 * d := Nat.mod_lt _ (by omega)
  refine ⟨x / (2 * d), Nat.div_lt_of_lt_mul hx, ?_⟩
  rcases Nat.lt_or_ge (x % (2 * d)) d with hlow | hhigh
  · exact ⟨x % (2 * d), hlow, .inl (by linarith)⟩
  · refine ⟨x % (2 * d) - d, by omega, .inr ?_⟩
    have hsub : x % (2 * d) - d + d = x % (2 * d) := Nat.sub_add_cancel hhigh
    linarith

/-- The range of a level (R506), for any twiddles below Q. -/
theorem netLevel_le {lvl : Nat} (h : a.length = 2 * 2 ^ lvl * tw.length) (htw : ∀ w ∈ tw, w < Q)
    (ha : ∀ x ∈ a, x ≤ levelBound lvl) :
    ∀ x ∈ netLevel (lvl % 2 == 1) (2 ^ lvl) tw a, x ≤ levelBound (lvl + 1) := by
  have hword := wordAt_le_of_forall_mem ha
  refine forall_mem_of_wordAt fun x hx => ?_
  rw [netLevel_length _ _ _ _ h, h] at hx
  obtain ⟨k, hk, v, hv, rfl | rfl⟩ := exists_butterfly_position (Nat.two_pow_pos lvl) hx
  · rw [wordAt_netLevel_low hv h hk]
    exact butterflySum_le (hword _) (hword _)
  · rw [wordAt_netLevel_high hv h hk]
    exact butterflyTwiddle_le_levelBound (hword _) (hword _) (htw _ (wordAt_mem hk))

end

/-! ## The transform of a block -/

/-- The sum of R507 over block u of 2^L words, at v. -/
def blockSum (ζ : ZMod Q) (a : List Nat) (L u v : Nat) : ZMod Q :=
  ∑ q ∈ Finset.range (2 ^ L), (wordAt a (2 ^ L * u + q) : ZMod Q) * ζ ^ (bitrev 10 (2 ^ L * u + q) * v)

section
variable {ζ : ZMod Q} {a : List Nat} {L j k : Nat}

/-- A block is its two halves. -/
theorem blockSum_succ (L k v : Nat) :
    blockSum ζ a (L + 1) k v = blockSum ζ a L (2 * k) v + blockSum ζ a L (2 * k + 1) v := by
  have hlow : ∀ q, (2 ^ L + 2 ^ L) * k + q = 2 ^ L * (2 * k) + q := fun q => by ring
  have hhigh : ∀ q, (2 ^ L + 2 ^ L) * k + (2 ^ L + q) = 2 ^ L * (2 * k + 1) + q := fun q => by ring
  rw [blockSum, show 2 ^ (L + 1) = 2 ^ L + 2 ^ L by ring, Finset.sum_range_add, blockSum, blockSum]
  exact congrArg₂ (· + ·) (Finset.sum_congr rfl fun q _ => by rw [hlow])
    (Finset.sum_congr rfl fun q _ => by rw [hhigh])

/-- Half c of block k, 2^L further: every term gains the factor (−1)^c and the twiddle of the block. -/
theorem blockSum_add_two_pow (hζ : ζ ^ 512 = -1) (hL : L + j = 9) (hk : k < 2 ^ j) {c : Nat} (hc : c < 2) (v : Nat) :
    blockSum ζ a L (2 * k + c) (2 ^ L + v) = ζ ^ bitrev 9 k * ((-1) ^ c * blockSum ζ a L (2 * k + c) v) := by
  have hone : ζ ^ 1024 = 1 := by rw [show 1024 = 512 * 2 from rfl, pow_mul, hζ, neg_one_sq]
  simp only [blockSum, Finset.mul_sum]
  refine Finset.sum_congr rfl fun q hq => ?_
  have hfactor : ζ ^ (2 ^ L * bitrev 10 (2 ^ L * (2 * k + c) + q)) = (-1) ^ c * ζ ^ bitrev 9 k := by
    rw [two_pow_mul_bitrev hL hk hc (Finset.mem_range.1 hq), pow_add, pow_add, pow_mul, pow_mul, hone, hζ, one_pow,
      one_mul]
  rw [Nat.mul_add (bitrev 10 _), pow_add, Nat.mul_comm _ (2 ^ L), hfactor]
  ring

/-- The upper half of a level's output: the difference of the halves, times the twiddle. -/
theorem blockSum_succ_add_two_pow (hζ : ζ ^ 512 = -1) (hL : L + j = 9) (hk : k < 2 ^ j) (v : Nat) :
    blockSum ζ a (L + 1) k (2 ^ L + v)
      = ζ ^ bitrev 9 k * (blockSum ζ a L (2 * k) v - blockSum ζ a L (2 * k + 1) v) := by
  have hlow := blockSum_add_two_pow (a := a) hζ hL hk (c := 0) (by decide) v
  have hhigh := blockSum_add_two_pow (a := a) hζ hL hk (c := 1) (by decide) v
  rw [blockSum_succ, hhigh, ← Nat.add_zero (2 * k), hlow]
  ring

end

/-! ## The ten levels -/

/-- W holds the powers of ζ in Montgomery form, in the order of BITREV9 (R502). -/
structure TwiddleTable (ζ : ZMod Q) (W : List Nat) : Prop where
  length : W.length = 512
  belowQ : ∀ w ∈ W, w < Q
  entry  : ∀ k < 512, (wordAt W k : ZMod Q) = (R : Nat) * ζ ^ bitrev 9 k

/-- What NET has made of a₀ before level L. -/
structure BeforeLevel (ζ : ZMod Q) (a₀ : List Nat) (L : Nat) (a : List Nat) : Prop where
  length : a.length = 1024
  bound  : ∀ x ∈ a, x ≤ levelBound L
  value  : ∀ u v, v < 2 ^ L → 2 ^ L * u + v < 1024 → (wordAt a (2 ^ L * u + v) : ZMod Q) = blockSum ζ a₀ L u v

section
variable {ζ : ZMod Q} {a₀ a W : List Nat} {L : Nat}

theorem beforeLevel_zero (hlen : a.length = 1024) (ha : ∀ x ∈ a, x ≤ 16383) : BeforeLevel ζ a 0 a where
  length := hlen
  bound  := ha
  value  := by
    intro u v hv _
    obtain rfl : v = 0 := Nat.lt_one_iff.1 hv
    simp [blockSum]

/-! ### One level, on 2^j blocks of 2^(L+1) words -/

section
variable {j k v : Nat}

theorem two_mul_two_pow_mul (hL : L + j = 9) : 2 * 2 ^ L * 2 ^ j = 1024 := by
  rw [Nat.mul_assoc, ← Nat.pow_add, hL]

theorem TwiddleTable.take_length (hW : TwiddleTable ζ W) (hL : L + j = 9) : (W.take (2 ^ j)).length = 2 ^ j := by
  have hle : 2 ^ j ≤ 512 := Nat.pow_le_pow_right Nat.two_pos (show j ≤ 9 by omega)
  rw [List.length_take, hW.length, min_eq_left hle]

theorem BeforeLevel.length_eq (h : BeforeLevel ζ a₀ L a) (hW : TwiddleTable ζ W) (hL : L + j = 9) :
    a.length = 2 * 2 ^ L * (W.take (2 ^ j)).length := by
  rw [hW.take_length hL, two_mul_two_pow_mul hL, h.length]

theorem BeforeLevel.wordAt_le (h : BeforeLevel ζ a₀ L a) (i : Nat) : wordAt a i ≤ 32766 :=
  (wordAt_le_of_forall_mem h.bound i).trans (levelBound_le L)

theorem BeforeLevel.value_half (h : BeforeLevel ζ a₀ L a) (hL : L + j = 9) (hk : k < 2 ^ j) {c : Nat} (hc : c < 2)
    (hv : v < 2 ^ L) : (wordAt a (2 ^ L * (2 * k + c) + v) : ZMod Q) = blockSum ζ a₀ L (2 * k + c) v := by
  refine h.value _ v hv ?_
  calc 2 ^ L * (2 * k + c) + v < 2 ^ L * (2 * k + c) + 2 ^ L := Nat.add_lt_add_left hv _
    _ = 2 ^ L * (2 * k + c + 1) := by ring
    _ ≤ 2 ^ L * (2 * 2 ^ j) := Nat.mul_le_mul_left _ (by omega)
    _ = 1024 := by rw [Nat.mul_left_comm, ← Nat.mul_assoc, two_mul_two_pow_mul hL]

theorem BeforeLevel.netLevel_low (h : BeforeLevel ζ a₀ L a) (hW : TwiddleTable ζ W) (hL : L + j = 9)
    (hk : k < 2 ^ j) (hv : v < 2 ^ L) :
    (wordAt (netLevel (L % 2 == 1) (2 ^ L) (W.take (2 ^ j)) a) (2 ^ L * (2 * k) + v) : ZMod Q)
      = blockSum ζ a₀ (L + 1) k v := by
  have hhalf : (wordAt a (2 ^ L * (2 * k) + v) : ZMod Q) = blockSum ζ a₀ L (2 * k) v :=
    h.value_half hL hk (c := 0) (by decide) hv
  rw [wordAt_netLevel_low hv (h.length_eq hW hL) (by rwa [hW.take_length hL]),
    butterflySum_cast _ (h.wordAt_le _) (h.wordAt_le _), blockSum_succ, hhalf,
    h.value_half hL hk (c := 1) (by decide) hv]

theorem BeforeLevel.netLevel_high (h : BeforeLevel ζ a₀ L a) (hW : TwiddleTable ζ W) (hζ : ζ ^ 512 = -1)
    (hL : L + j = 9) (hk : k < 2 ^ j) (hv : v < 2 ^ L) :
    (wordAt (netLevel (L % 2 == 1) (2 ^ L) (W.take (2 ^ j)) a) (2 ^ L * (2 * k + 1) + v) : ZMod Q)
      = blockSum ζ a₀ (L + 1) k (2 ^ L + v) := by
  have hk512 : k < 512 := hk.trans_le (Nat.pow_le_pow_right Nat.two_pos (show j ≤ 9 by omega))
  have hbelow : wordAt W k < Q := hW.belowQ _ (wordAt_mem (by rwa [hW.length]))
  have hhalf : (wordAt a (2 ^ L * (2 * k) + v) : ZMod Q) = blockSum ζ a₀ L (2 * k) v :=
    h.value_half hL hk (c := 0) (by decide) hv
  rw [wordAt_netLevel_high hv (h.length_eq hW hL) (by rwa [hW.take_length hL]), wordAt_take hk,
    butterflyTwiddle_cast (h.wordAt_le _) (h.wordAt_le _) hbelow (hW.entry k hk512),
    blockSum_succ_add_two_pow hζ hL hk, hhalf, h.value_half hL hk (c := 1) (by decide) hv]

theorem BeforeLevel.step (h : BeforeLevel ζ a₀ L a) (hW : TwiddleTable ζ W) (hζ : ζ ^ 512 = -1) (hL : L + j = 9) :
    BeforeLevel ζ a₀ (L + 1) (netLevel (L % 2 == 1) (2 ^ L) (W.take (2 ^ j)) a) where
  length := by rw [netLevel_length _ _ _ _ (h.length_eq hW hL), h.length]
  bound  := netLevel_le (h.length_eq hW hL) (fun w hw => hW.belowQ w (List.mem_of_mem_take hw)) h.bound
  value  := by
    intro k w hw hx
    have hk : k < 2 ^ j := by
      refine Nat.lt_of_mul_lt_mul_left (a := 2 * 2 ^ L) ?_
      rw [two_mul_two_pow_mul hL, ← Nat.pow_succ']
      exact (Nat.le_add_right _ w).trans_lt hx
    rcases Nat.lt_or_ge w (2 ^ L) with hv | hv
    · rw [show 2 ^ (L + 1) * k = 2 ^ L * (2 * k) by ring, h.netLevel_low hW hL hk hv]
    · obtain ⟨v, rfl⟩ := Nat.exists_eq_add_of_le hv
      have hv : v < 2 ^ L := by rw [Nat.pow_succ] at hw; omega
      rw [show 2 ^ (L + 1) * k + (2 ^ L + v) = 2 ^ L * (2 * k + 1) + v by ring, h.netLevel_high hW hζ hL hk hv]

end

/-- The number of twiddles a level takes is its number of blocks. -/
theorem blocks_of_level {j : Nat} (hL : L + j = 9) : 1024 / (2 * 2 ^ L) = 2 ^ j :=
  Nat.div_eq_of_eq_mul_right (by positivity) (two_mul_two_pow_mul hL).symm

theorem beforeLevel_netFrom (hW : TwiddleTable ζ W) (hζ : ζ ^ 512 = -1) (n : Nat) :
    ∀ {L a}, L + n = 10 → BeforeLevel ζ a₀ L a → BeforeLevel ζ a₀ 10 (netFrom W n L a) := by
  induction n with
  | zero =>
    rintro L a rfl h
    exact h
  | succ n ih =>
    intro L a hL h
    have hstep := h.step (j := n) hW hζ (by omega)
    rw [← blocks_of_level (L := L) (j := n) (by omega)] at hstep
    exact ih (by omega) hstep

theorem beforeLevel_net (hW : TwiddleTable ζ W) (hζ : ζ ^ 512 = -1) (hlen : a.length = 1024)
    (ha : ∀ x ∈ a, x ≤ 16383) : BeforeLevel ζ a 10 (net a W) :=
  beforeLevel_netFrom hW hζ 10 rfl (beforeLevel_zero hlen ha)

/-- The function of NET (R507). -/
theorem wordAt_net_cast (hW : TwiddleTable ζ W) (hζ : ζ ^ 512 = -1) (hlen : a.length = 1024)
    (ha : ∀ x ∈ a, x ≤ 16383) {m : Nat} (hm : m < 1024) :
    (wordAt (net a W) m : ZMod Q) = ∑ p ∈ Finset.range 1024, (wordAt a p : ZMod Q) * ζ ^ (bitrev 10 p * m) := by
  have h := (beforeLevel_net hW hζ hlen ha).value 0 m hm (by omega)
  rw [Nat.mul_zero, Nat.zero_add] at h
  simpa only [blockSum, Nat.mul_zero, Nat.zero_add, show 2 ^ 10 = 1024 from rfl] using h

theorem net_le (hW : TwiddleTable ζ W) (hζ : ζ ^ 512 = -1) (hlen : a.length = 1024) (ha : ∀ x ∈ a, x ≤ 16383) :
    ∀ x ∈ net a W, x ≤ 16383 := (beforeLevel_net hW hζ hlen ha).bound

end

end Sys2Proof.Machine
end

section
/-! SUPPORT. The roots of unity of spec/41_ntt.md R500 in Z_Q, and the default tables as powers of them. -/
namespace Sys2Proof.Machine

theorem prime_Q : Nat.Prime Q := by norm_num

theorem psi_mul_psiInv : (PSI : ZMod Q) * (PSI_INV : Nat) = 1 := by
  exact_mod_cast (ZMod.natCast_eq_natCast_iff' (PSI * PSI_INV) 1 Q).2 (by norm_num)

theorem ninv_mul : (NINV : ZMod Q) * 1024 = 1 := by
  exact_mod_cast (ZMod.natCast_eq_natCast_iff' (NINV * 1024) 1 Q).2 (by norm_num)

theorem psi_pow_two : (PSI : ZMod Q) ^ 2 = (OMEGA : Nat) := by
  exact_mod_cast (ZMod.natCast_eq_natCast_iff' (PSI ^ 2) OMEGA Q).2 (by norm_num)

theorem psi_pow_1024 : (PSI : ZMod Q) ^ 1024 = -1 := by
  rw [eq_neg_iff_add_eq_zero]
  exact_mod_cast (ZMod.natCast_eq_natCast_iff' (PSI ^ 1024 + 1) 0 Q).2 (by decide +kernel)

theorem omega_pow_512 : (OMEGA : ZMod Q) ^ 512 = -1 := by
  rw [← psi_pow_two, ← pow_mul, psi_pow_1024]

theorem omegaInv_pow_512 : (OMEGA_INV : ZMod Q) ^ 512 = -1 := by
  rw [eq_neg_iff_add_eq_zero]
  exact_mod_cast (ZMod.natCast_eq_natCast_iff' (OMEGA_INV ^ 512 + 1) 0 Q).2 (by decide +kernel)

theorem omega_mul_omegaInv : (OMEGA : ZMod Q) * (OMEGA_INV : Nat) = 1 := by
  exact_mod_cast (ZMod.natCast_eq_natCast_iff' (OMEGA * OMEGA_INV) 1 Q).2 (by norm_num)

theorem twiddleTable_tOmega : TwiddleTable (OMEGA : Nat) tOmega where
  length := tOmega_length
  belowQ := tOmega_lt_Q
  entry  := fun k hk => by rw [wordAt_tOmega hk, ZMod.natCast_mod, Nat.cast_mul, Nat.cast_pow OMEGA]

theorem twiddleTable_tOmegaInv : TwiddleTable (OMEGA_INV : Nat) tOmegaInv where
  length := tOmegaInv_length
  belowQ := tOmegaInv_lt_Q
  entry  := fun k hk => by rw [wordAt_tOmegaInv hk, ZMod.natCast_mod, Nat.cast_mul, Nat.cast_pow OMEGA_INV]

theorem tPsiBr_cast {p : Nat} (hp : p < 1024) :
    (wordAt tPsiBr p : ZMod Q) = (R : Nat) * (PSI : Nat) ^ bitrev 10 p := by
  rw [wordAt_tPsiBr hp, ZMod.natCast_mod, Nat.cast_mul, Nat.cast_pow PSI]

theorem tPsiInv_cast {m : Nat} (hm : m < 1024) :
    (wordAt tPsiInv m : ZMod Q) = (R : Nat) * ((NINV : Nat) * (PSI_INV : Nat) ^ m) := by
  rw [wordAt_tPsiInv hm, ZMod.natCast_mod, Nat.cast_mul, Nat.cast_mul, Nat.cast_pow PSI_INV, mul_assoc]

/-- The sums the statements write over lists are sums over the range. -/
theorem sum_map_range {M : Type} [AddCommMonoid M] (f : Nat → M) (n : Nat) :
    ((List.range n).map f).sum = ∑ i ∈ Finset.range n, f i := rfl

theorem transformSum_cast (a : List Nat) (root : Nat) (e : Nat → Nat) :
    ((((List.range 1024).map fun p => wordAt a p * root ^ e p).sum : Nat) : ZMod Q)
      = ∑ p ∈ Finset.range 1024, (wordAt a p : ZMod Q) * (root : ZMod Q) ^ e p := by
  rw [sum_map_range, Nat.cast_sum]
  exact Finset.sum_congr rfl fun p _ => by rw [Nat.cast_mul, Nat.cast_pow]

end Sys2Proof.Machine
end

section
/-! The statement about the function of NET (spec/41_ntt.md R507). -/
namespace Sys2Proof.Machine

/-- Settles O44: NET over the powers of OMEGA and of its inverse, both of which have 512th power −1. -/
theorem networkFunction : Obligations.NetworkFunction := by
  intro a hlen ha m hm
  refine ⟨(ZMod.natCast_eq_natCast_iff' _ _ Q).1 ?_, (ZMod.natCast_eq_natCast_iff' _ _ Q).1 ?_⟩
  · rw [wordAt_net_cast twiddleTable_tOmega omega_pow_512 hlen ha hm, transformSum_cast]
  · rw [wordAt_net_cast twiddleTable_tOmegaInv omegaInv_pow_512 hlen ha hm, transformSum_cast]

end Sys2Proof.Machine
end

section
/-! SUPPORT. NTT and INTT as evaluations (spec/41_ntt.md R501, R510, R511). -/
namespace Sys2Proof.Machine

/-- The polynomial with the coefficients c, evaluated at z. -/
def evalAt (c : List Nat) (z : ZMod Q) : ZMod Q := ∑ j ∈ Finset.range 1024, (wordAt c j : ZMod Q) * z ^ j

section
variable {a b c W : List Nat} {m j : Nat} {ζ : ZMod Q}

theorem nttMath_cast (c : List Nat) (m : Nat) : (nttMath c m : ZMod Q) = evalAt c ((PSI : Nat) ^ (2 * m + 1)) := by
  rw [nttMath, ZMod.natCast_mod, transformSum_cast, evalAt]
  simp only [pow_mul]

theorem inttMath_cast (c : List Nat) (j : Nat) :
    (inttMath c j : ZMod Q) = (NINV : Nat) * (PSI_INV : Nat) ^ j * evalAt c ((OMEGA_INV : Nat) ^ j) := by
  rw [inttMath, ZMod.natCast_mod, Nat.cast_mul, transformSum_cast, Nat.cast_mul, Nat.cast_pow, evalAt]
  simp only [pow_mul]

theorem inttMath_mod (c : List Nat) (j : Nat) : inttMath c j % Q = inttMath c j := Nat.mod_mod _ _

theorem evalAt_map_mod (hlen : c.length = 1024) (z : ZMod Q) : evalAt (c.map (· % Q)) z = evalAt c z := by
  refine Finset.sum_congr rfl fun j hj => ?_
  rw [wordAt_map _ (by rw [hlen]; exact Finset.mem_range.1 hj), ZMod.natCast_mod]

/-- Bit reversal permutes the indices of a sum. -/
theorem sum_bitrev (f : Nat → ZMod Q) :
    ∑ p ∈ Finset.range 1024, f (bitrev 10 p) = ∑ j ∈ Finset.range 1024, f j := by
  have hmem : ∀ p ∈ Finset.range 1024, bitrev 10 p ∈ Finset.range 1024 := fun p _ =>
    Finset.mem_range.2 (bitrev_lt_1024 p)
  have hinv : ∀ p ∈ Finset.range 1024, bitrev 10 (bitrev 10 p) = p := fun p hp =>
    bitrev_bitrev (n := 10) (Finset.mem_range.1 hp)
  exact Finset.sum_nbij' (bitrev 10) (bitrev 10) hmem hmem hinv hinv fun _ _ => rfl

/-- NET on words in bit-reversed order (R507): its output is in natural order. -/
theorem wordAt_net_of_bitrev (hW : TwiddleTable ζ W) (hζ : ζ ^ 512 = -1) (hlen : a.length = 1024)
    (ha : ∀ x ∈ a, x ≤ 16383) {f : Nat → ZMod Q} (hf : ∀ p < 1024, (wordAt a p : ZMod Q) = f (bitrev 10 p))
    (hm : m < 1024) :
    (wordAt (net a W) m : ZMod Q) = ∑ j ∈ Finset.range 1024, f j * (ζ ^ m) ^ j := by
  rw [wordAt_net_cast hW hζ hlen ha hm, ← sum_bitrev fun j => f j * (ζ ^ m) ^ j]
  refine Finset.sum_congr rfl fun p hp => ?_
  rw [hf p (Finset.mem_range.1 hp), ← pow_mul, Nat.mul_comm]

/-! ## NTT (R510) -/

/-- The premultiplied words meet the input range of NET (R506). -/
theorem mulc_tPsiBr_le (h : isBuffer a) : ∀ x ∈ mulc a tPsiBr, x ≤ 16383 := by
  obtain ⟨hlen, hlt⟩ := h
  refine forall_mem_of_wordAt fun i hi => ?_
  rw [mulc_length, tPsiBr_length, hlen] at hi
  have ha : i < a.length := by rw [hlen]; exact hi
  have ht : i < tPsiBr.length := by rw [tPsiBr_length]; exact hi
  rw [mulc, wordAt_zipWith _ ha ht]
  exact (mr_mul_le (hlt _ (wordAt_mem ha)) (tPsiBr_lt_Q _ (wordAt_mem ht))).trans (by norm_num)

theorem wordAt_mulc_tPsiBr_cast (h : isBuffer a) {p : Nat} (hp : p < 1024) :
    (wordAt (mulc a tPsiBr) p : ZMod Q) = wordAt a p * (PSI : Nat) ^ bitrev 10 p := by
  obtain ⟨hlen, hlt⟩ := h
  have ha : p < a.length := by rw [hlen]; exact hp
  have ht : p < tPsiBr.length := by rw [tPsiBr_length]; exact hp
  rw [mulc, wordAt_zipWith _ ha ht]
  exact mr_mul_cast (hlt _ (wordAt_mem ha)) (tPsiBr_lt_Q _ (wordAt_mem ht)) (tPsiBr_cast hp)

/-- Word m of NTT(c) is c evaluated at PSI^(2m+1) (R512). -/
theorem wordAt_nttWords_cast (h : isBuffer c) (hm : m < 1024) :
    (wordAt (nttWords true .standard c) m : ZMod Q) = evalAt c ((PSI : Nat) ^ (2 * m + 1)) := by
  have hperm := isBuffer_permute h
  have hlen : (mulc (permute c) tPsiBr).length = 1024 := by rw [mulc_length, hperm.1, tPsiBr_length, min_self]
  have hf : ∀ p < 1024, (wordAt (mulc (permute c) tPsiBr) p : ZMod Q)
      = wordAt c (bitrev 10 p) * (PSI : Nat) ^ bitrev 10 p := fun p hp => by
    rw [wordAt_mulc_tPsiBr_cast hperm hp, wordAt_permute h.1 hp]
  have hnet := wordAt_net_of_bitrev (f := fun j => wordAt c j * (PSI : Nat) ^ j) twiddleTable_tOmega omega_pow_512 hlen
    (mulc_tPsiBr_le hperm) hf hm
  refine hnet.trans (Finset.sum_congr rfl fun j _ => ?_)
  rw [← psi_pow_two]
  generalize ((PSI : Nat) : ZMod Q) = ψ
  ring

theorem nttWords_le (first : Bool) (h : isBuffer c) : ∀ x ∈ nttWords first .standard c, x ≤ 16383 := by
  have hfrom : isBuffer (if first then permute c else c) := by
    cases first with
    | false => exact h
    | true => exact isBuffer_permute h
  exact net_le twiddleTable_tOmega omega_pow_512 (by rw [mulc_length, hfrom.1, romPsiBr_length, min_self])
    (mulc_tPsiBr_le hfrom)

/-! ## INTT (R511) -/

theorem permute_le {B : Nat} (hlen : a.length = 1024) (ha : ∀ x ∈ a, x ≤ B) : ∀ x ∈ permute a, x ≤ B :=
  forall_mem_of_wordAt fun i hi => by
    rw [wordAt_permute hlen (by rwa [permute_length, hlen] at hi)]
    exact wordAt_le_of_forall_mem ha _

theorem wordAt_inttNet_cast (hlen : a.length = 1024) (ha : ∀ x ∈ a, x ≤ 16383) (hj : j < 1024) :
    (wordAt (net (permute a) tOmegaInv) j : ZMod Q) = evalAt a ((OMEGA_INV : Nat) ^ j) :=
  wordAt_net_of_bitrev (f := fun j => wordAt a j) twiddleTable_tOmegaInv omegaInv_pow_512
    (by rw [permute_length, hlen]) (permute_le hlen ha) (fun p hp => by rw [wordAt_permute hlen hp]) hj

/-- INTT scales every word of NET by a Montgomery product and subtracts Q at most once. -/
theorem wordAt_inttWords_eq_subQ (hlen : a.length = 1024) (hj : j < 1024) :
    wordAt (inttWords .standard a) j = subQ (mr (wordAt (net (permute a) tOmegaInv) j * wordAt tPsiInv j)) := by
  have hnet : (net (permute a) tOmegaInv).length = 1024 :=
    net_length _ _ (by rw [permute_length, hlen]) tOmegaInv_length
  have hmul : (mulc (net (permute a) tOmegaInv) tPsiInv).length = 1024 := by
    rw [mulc_length, hnet, tPsiInv_length, min_self]
  rw [inttWords, romOmegaInv, romPsiInv, wordAt_map _ (by rwa [hmul]), mulc,
    wordAt_zipWith _ (by rwa [hnet]) (by rwa [tPsiInv_length])]

/-- The scaled word is below 2Q, so that one subtraction reduces it, and INTT computes INTTm (R511). -/
theorem wordAt_inttWords (hlen : a.length = 1024) (ha : ∀ x ∈ a, x ≤ 16383) (hj : j < 1024) :
    wordAt (inttWords .standard a) j = inttMath a j := by
  have hlt : j < tPsiInv.length := by rwa [tPsiInv_length]
  have hword : wordAt (net (permute a) tOmegaInv) j < 2 ^ 14 := Nat.lt_succ_of_le <| wordAt_le_of_forall_mem
    (net_le twiddleTable_tOmegaInv omegaInv_pow_512 (by rw [permute_length, hlen]) (permute_le hlen ha)) j
  have hentry : wordAt tPsiInv j < Q := tPsiInv_lt_Q _ (wordAt_mem hlt)
  have hprod : wordAt (net (permute a) tOmegaInv) j * wordAt tPsiInv j < 2 ^ 18 * Q :=
    Nat.mul_lt_mul'' (hword.trans (by norm_num)) hentry
  rw [wordAt_inttWords_eq_subQ hlen hj, subQ_eq_mod (mr_lt_two_mul_Q (hprod.trans (by norm_num)) hprod),
    ← inttMath_mod a j]
  refine (ZMod.natCast_eq_natCast_iff' _ _ Q).1 ?_
  rw [mr_mul_cast (hword.trans (by norm_num)) hentry (tPsiInv_cast hj), wordAt_inttNet_cast hlen ha hj, inttMath_cast,
    mul_comm]

end

end Sys2Proof.Machine
end

section
/-! The statement about the meaning of the transforms (spec/41_ntt.md R511, R512). -/
namespace Sys2Proof.Machine

/-- Settles O47: both sides of R512 are c evaluated at PSI^(2m+1). -/
theorem transformMeaning : Obligations.TransformMeaning := by
  refine ⟨fun c hc m hm => ?_, fun a hlen ha j hj => wordAt_inttWords hlen ha hj⟩
  have hmath : nttMath (c.map (· % Q)) m % Q = nttMath (c.map (· % Q)) m := Nat.mod_mod _ _
  rw [← hmath]
  refine (ZMod.natCast_eq_natCast_iff' _ _ Q).1 ?_
  rw [wordAt_nttWords_cast hc hm, nttMath_cast, evalAt_map_mod hc.1]

end Sys2Proof.Machine
end

section
/-! SUPPORT. The inverse law in Z_Q (spec/41_ntt.md R501, R513): the powers of OMEGA are orthogonal, so that INTTm
recovers a polynomial from its values at the odd powers of PSI. -/
namespace Sys2Proof.Machine

section
variable {C c p : List Nat} {i j : Nat}

theorem orderOf_omega : orderOf (OMEGA : ZMod Q) = 1024 := by
  have hone : ¬ (OMEGA : ZMod Q) ^ 2 ^ 9 = 1 := by
    have : Fact (2 < Q) := ⟨by norm_num⟩
    rw [show 2 ^ 9 = 512 from rfl, omega_pow_512]
    exact ZMod.neg_one_ne_one
  have hfin : (OMEGA : ZMod Q) ^ 2 ^ (9 + 1) = 1 := by
    rw [show 2 ^ (9 + 1) = 512 * 2 from rfl, pow_mul, omega_pow_512, neg_one_sq]
  have : Fact (Nat.Prime 2) := ⟨Nat.prime_two⟩
  exact orderOf_eq_prime_pow hone hfin

theorem omega_mul_omegaInv_pow (j : Nat) : (OMEGA : ZMod Q) ^ j * (OMEGA_INV : Nat) ^ j = 1 := by
  rw [← mul_pow, omega_mul_omegaInv, one_pow]

theorem omega_pow_mul_omegaInv_pow_eq_one_iff (hi : i < 1024) (hj : j < 1024) :
    (OMEGA : ZMod Q) ^ i * (OMEGA_INV : Nat) ^ j = 1 ↔ i = j := by
  constructor
  · intro h
    have heq : (OMEGA : ZMod Q) ^ i = (OMEGA : Nat) ^ j := by
      calc (OMEGA : ZMod Q) ^ i = (OMEGA : Nat) ^ i * ((OMEGA : Nat) ^ j * (OMEGA_INV : Nat) ^ j) := by
            rw [omega_mul_omegaInv_pow, mul_one]
        _ = (OMEGA : Nat) ^ i * (OMEGA_INV : Nat) ^ j * (OMEGA : Nat) ^ j := by ring
        _ = (OMEGA : Nat) ^ j := by rw [h, one_mul]
    exact pow_injOn_Iio_orderOf (by rwa [orderOf_omega]) (by rwa [orderOf_omega]) heq
  · rintro rfl
    exact omega_mul_omegaInv_pow i

/-- A root of unity other than 1 has powers that sum to 0. -/
theorem sum_omega_pow (hi : i < 1024) (hj : j < 1024) :
    ∑ m ∈ Finset.range 1024, ((OMEGA : ZMod Q) ^ i * (OMEGA_INV : Nat) ^ j) ^ m = if i = j then 1024 else 0 := by
  have hone := omega_pow_mul_omegaInv_pow_eq_one_iff hi hj
  split
  case isTrue h =>
    simp only [hone.2 h, one_pow, Finset.sum_const, Finset.card_range, nsmul_eq_mul, mul_one]
    rfl
  case isFalse h =>
    have : Fact (Nat.Prime Q) := ⟨prime_Q⟩
    have hpow : ((OMEGA : ZMod Q) ^ i * (OMEGA_INV : Nat) ^ j) ^ 1024 = 1 := by
      have h1 : (OMEGA : ZMod Q) ^ 1024 = 1 := by rw [← orderOf_omega]; exact pow_orderOf_eq_one _
      have h2 : (OMEGA_INV : ZMod Q) ^ 1024 = 1 := by
        rw [show 1024 = 512 * 2 from rfl, pow_mul, omegaInv_pow_512, neg_one_sq]
      rw [mul_pow, pow_right_comm, h1, one_pow, one_mul, pow_right_comm, h2, one_pow]
    have hgeom := geom_sum_mul ((OMEGA : ZMod Q) ^ i * (OMEGA_INV : Nat) ^ j) 1024
    rw [hpow, sub_self] at hgeom
    exact (mul_eq_zero.1 hgeom).resolve_right (sub_ne_zero.2 fun h1 => h (hone.1 h1))

/-- The inner sum of INTTm over the values of c. -/
theorem evalAt_omegaInv_of_values (hC : ∀ m < 1024, (wordAt C m : ZMod Q) = evalAt c ((PSI : Nat) ^ (2 * m + 1)))
    (hj : j < 1024) :
    evalAt C ((OMEGA_INV : Nat) ^ j) = wordAt c j * (PSI : Nat) ^ j * 1024 := by
  have hterm : ∀ m ∈ Finset.range 1024, (wordAt C m : ZMod Q) * ((OMEGA_INV : Nat) ^ j) ^ m
      = ∑ i ∈ Finset.range 1024,
          (wordAt c i : ZMod Q) * (PSI : Nat) ^ i * ((OMEGA : ZMod Q) ^ i * (OMEGA_INV : Nat) ^ j) ^ m := by
    intro m hm
    rw [hC m (Finset.mem_range.1 hm), evalAt, Finset.sum_mul]
    refine Finset.sum_congr rfl fun i _ => ?_
    rw [← psi_pow_two]
    generalize ((PSI : Nat) : ZMod Q) = ψ
    ring
  calc evalAt C ((OMEGA_INV : Nat) ^ j)
      = ∑ i ∈ Finset.range 1024, (wordAt c i : ZMod Q) * (PSI : Nat) ^ i *
          ∑ m ∈ Finset.range 1024, ((OMEGA : ZMod Q) ^ i * (OMEGA_INV : Nat) ^ j) ^ m := by
        rw [evalAt, Finset.sum_congr rfl hterm, Finset.sum_comm]
        simp only [Finset.mul_sum]
    _ = ∑ i ∈ Finset.range 1024, if i = j then (wordAt c i : ZMod Q) * (PSI : Nat) ^ i * 1024 else 0 :=
        Finset.sum_congr rfl fun i hi => by rw [sum_omega_pow (Finset.mem_range.1 hi) hj, mul_ite, mul_zero]
    _ = wordAt c j * (PSI : Nat) ^ j * 1024 := by
        rw [Finset.sum_ite_eq' (Finset.range 1024) j, if_pos (Finset.mem_range.2 hj)]

/-- INTTm is the inverse of NTTm (R501). -/
theorem inttMath_of_values (hC : ∀ m < 1024, (wordAt C m : ZMod Q) = evalAt c ((PSI : Nat) ^ (2 * m + 1)))
    (hj : j < 1024) : inttMath C j = wordAt c j % Q := by
  have hpsi : (PSI : ZMod Q) ^ j * (PSI_INV : Nat) ^ j = 1 := by rw [← mul_pow, psi_mul_psiInv, one_pow]
  rw [← inttMath_mod]
  refine (ZMod.natCast_eq_natCast_iff' _ _ Q).1 ?_
  calc (inttMath C j : ZMod Q)
      = (NINV : Nat) * (PSI_INV : Nat) ^ j * (wordAt c j * (PSI : Nat) ^ j * 1024) := by
        rw [inttMath_cast, evalAt_omegaInv_of_values hC hj]
    _ = (NINV : Nat) * 1024 * ((PSI : Nat) ^ j * (PSI_INV : Nat) ^ j) * wordAt c j := by ring
    _ = wordAt c j := by rw [ninv_mul, hpsi, one_mul, one_mul]

/-! ## INTT after NTT (R513) -/

theorem inttWords_nttWords (h : isBuffer p) : inttWords .standard (nttWords true .standard p) = p.map (· % Q) := by
  have hlen := nttWords_length true .standard p h.1
  refine eq_of_wordAt (by rw [inttWords_length _ _ hlen, List.length_map, h.1]) fun j hj => ?_
  rw [inttWords_length _ _ hlen] at hj
  rw [wordAt_inttWords hlen (nttWords_le true h) hj, inttMath_of_values (fun m hm => wordAt_nttWords_cast h hm) hj,
    wordAt_map _ (by rwa [h.1])]

/-- Without the forward permutation NTT transforms the permuted polynomial. -/
theorem nttWords_false (hlen : p.length = 1024) (rom : TableRom) :
    nttWords false rom p = nttWords true rom (permute p) := by
  rw [nttWords, nttWords, if_pos rfl, permute_permute hlen]
  rfl

end

end Sys2Proof.Machine
end

section
/-! The statement about the inverse law (spec/41_ntt.md R513). -/
namespace Sys2Proof.Machine

/-- Settles O48: the law for any 16-bit words; reduced words are their own residues, and without the forward permutation
the law is that of the permuted words. -/
theorem inverseLaw : Obligations.InverseLaw := by
  refine ⟨fun p hlen hlt => ?_, fun p h => inttWords_nttWords h, fun p h => ?_⟩
  · have hbuffer : isBuffer p := ⟨hlen, fun x hx => (hlt x hx).trans (by norm_num)⟩
    rw [inttWords_nttWords hbuffer, List.map_congr_left fun x hx => Nat.mod_eq_of_lt (hlt x hx), List.map_id']
  · rw [nttWords_false h.1, inttWords_nttWords (isBuffer_permute h), permute_map _ h.1]

end Sys2Proof.Machine
end

section
/-! SUPPORT. The ring Z_Q[x]/(x^1024 + 1) by evaluation at a root of x^1024 + 1 (spec/41_ntt.md R501, R514), and the
product PMUL makes of two transforms. -/
namespace Sys2Proof.Machine

section
variable {a b : List Nat} {k m : Nat} {z : ZMod Q}

theorem ringMul_cast (a b : List Nat) (k : Nat) :
    (ringMul a b k : ZMod Q) = ∑ i ∈ Finset.range 1024,
      if i ≤ k then (wordAt a i : ZMod Q) * wordAt b (k - i) else -(wordAt a i * wordAt b (1024 + k - i)) := by
  have hpos : ∀ v : Int, ((v.emod (Q : Int)).toNat : ZMod Q) = v := fun v => by
    have h : ((v.emod (Q : Int)).toNat : Int) = v % (Q : Int) := Int.toNat_of_nonneg (Int.emod_nonneg _ (by norm_num))
    rw [← Int.cast_natCast, h, ZMod.intCast_mod]
  rw [ringMul, hpos, sum_map_range, Int.cast_sum]
  refine Finset.sum_congr rfl fun i _ => ?_
  split
  · rw [Int.cast_mul, Int.cast_natCast, Int.cast_natCast]
  · rw [Int.cast_neg, Int.cast_mul, Int.cast_natCast, Int.cast_natCast]

theorem ringMul_lt (a b : List Nat) (k : Nat) : ringMul a b k < Q := by
  rw [ringMul, Int.toNat_lt' (by norm_num)]
  exact Int.emod_lt_of_pos _ (by norm_num)

/-- Multiplication by x^i shifts the coefficients and negates those that wrap: at a root of x^1024 + 1 that is
multiplication by z^i. -/
theorem sum_negacyclic_shift (hz : z ^ 1024 = -1) (b : List Nat) {i : Nat} (hi : i < 1024) :
    ∑ k ∈ Finset.range 1024, (if i ≤ k then (wordAt b (k - i) : ZMod Q) else -wordAt b (1024 + k - i)) * z ^ k
      = z ^ i * evalAt b z := by
  obtain ⟨e, he⟩ : ∃ e, i + e = 1024 := ⟨1024 - i, by omega⟩
  have hwrap : ∀ k ∈ Finset.range i,
      (if i ≤ k then (wordAt b (k - i) : ZMod Q) else -wordAt b (1024 + k - i)) * z ^ k
        = z ^ i * (wordAt b (e + k) * z ^ (e + k)) := by
    intro k hk
    have hki := Finset.mem_range.1 hk
    rw [if_neg (by omega), show 1024 + k - i = e + k by omega, neg_mul_comm, mul_left_comm, ← pow_add,
      show i + (e + k) = 1024 + k by omega, pow_add, hz, neg_one_mul]
  have hshift : ∀ k ∈ Finset.range e,
      (if i ≤ i + k then (wordAt b (i + k - i) : ZMod Q) else -wordAt b (1024 + (i + k) - i)) * z ^ (i + k)
        = z ^ i * (wordAt b k * z ^ k) := by
    intro k _
    rw [if_pos (Nat.le_add_right i k), Nat.add_sub_cancel_left, pow_add, mul_left_comm]
  rw [evalAt, Finset.mul_sum, ← he, Finset.sum_range_add, he, Finset.sum_congr rfl hwrap, Finset.sum_congr rfl hshift,
    ← he, Nat.add_comm i e, Finset.sum_range_add, add_comm]

/-- The product in the ring, evaluated at a root of x^1024 + 1, is the product of the values. -/
theorem evalAt_ringMul (hz : z ^ 1024 = -1) (a b : List Nat) :
    evalAt ((List.range 1024).map (ringMul a b)) z = evalAt a z * evalAt b z := by
  have hcoeff : ∀ k ∈ Finset.range 1024,
      (wordAt ((List.range 1024).map (ringMul a b)) k : ZMod Q) * z ^ k = ∑ i ∈ Finset.range 1024,
        wordAt a i * ((if i ≤ k then (wordAt b (k - i) : ZMod Q) else -wordAt b (1024 + k - i)) * z ^ k) := by
    intro k hk
    rw [wordAt_map_range _ (Finset.mem_range.1 hk), ringMul_cast, Finset.sum_mul]
    refine Finset.sum_congr rfl fun i _ => ?_
    split <;> ring
  calc evalAt ((List.range 1024).map (ringMul a b)) z
      = ∑ i ∈ Finset.range 1024, wordAt a i * ∑ k ∈ Finset.range 1024,
          (if i ≤ k then (wordAt b (k - i) : ZMod Q) else -wordAt b (1024 + k - i)) * z ^ k := by
        rw [evalAt, Finset.sum_congr rfl hcoeff, Finset.sum_comm]
        simp only [Finset.mul_sum]
    _ = ∑ i ∈ Finset.range 1024, wordAt a i * z ^ i * evalAt b z :=
        Finset.sum_congr rfl fun i hi => by rw [sum_negacyclic_shift hz b (Finset.mem_range.1 hi), mul_assoc]
    _ = evalAt a z * evalAt b z := (Finset.sum_mul ..).symm

/-- The odd powers of PSI are roots of x^1024 + 1 (R501). -/
theorem psi_odd_pow_1024 (m : Nat) : ((PSI : ZMod Q) ^ (2 * m + 1)) ^ 1024 = -1 := by
  rw [pow_right_comm, psi_pow_1024, Odd.neg_one_pow ⟨m, rfl⟩]

/-! ## PMUL (R601, R604) -/

theorem pmulFactor_le {y : Nat} (hy : y < 2 ^ 16) : mr (R2MODQ * y) ≤ 13085 := by
  have h : mr (3186 * y) ≤ 3186 * y / 2 ^ 18 + 12289 := mr_le_div_add_Q (by omega)
  exact h.trans (by omega)

theorem pmulFactor_cast {y : Nat} (hy : y < 2 ^ 16) : (mr (R2MODQ * y) : ZMod Q) = (R : Nat) * y := by
  have hR2 : (R2MODQ : ZMod Q) = (R : Nat) * (R : Nat) := by
    exact_mod_cast (ZMod.natCast_eq_natCast_iff' R2MODQ (R * R) Q).2 (by norm_num)
  refine mr_cast (show 3186 * y < 2 ^ 32 by omega) ?_
  rw [Nat.cast_mul, hR2, mul_assoc]

theorem mul_pmulFactor_le {x y : Nat} (hx : x < 2 ^ 16) (hy : y < 2 ^ 16) : x * mr (R2MODQ * y) ≤ 65535 * 13085 :=
  Nat.mul_le_mul (Nat.le_of_lt_succ hx) (pmulFactor_le hy)

theorem pmulLane_cast {x y : Nat} (hx : x < 2 ^ 16) (hy : y < 2 ^ 16) : (pmulLane x y : ZMod Q) = x * y := by
  have hprod := mul_pmulFactor_le hx hy
  refine mr_cast (by omega) ?_
  rw [Nat.cast_mul, pmulFactor_cast hy, mul_left_comm]

/-- A lane of PMUL meets the input range of INTT (R514). -/
theorem pmulLane_le {x y : Nat} (hx : x < 2 ^ 16) (hy : y < 2 ^ 16) : pmulLane x y ≤ 16383 := by
  have hprod := mul_pmulFactor_le hx hy
  have hmr : pmulLane x y ≤ x * mr (R2MODQ * y) / 2 ^ 18 + 12289 := mr_le_div_add_Q (by omega)
  omega

theorem wordAt_zipWith_pmulLane_cast (ha : isBuffer a) (hb : isBuffer b) (hm : m < 1024) :
    (wordAt (List.zipWith pmulLane a b) m : ZMod Q) = wordAt a m * wordAt b m := by
  have hma : m < a.length := by rwa [ha.1]
  have hmb : m < b.length := by rwa [hb.1]
  rw [wordAt_zipWith _ hma hmb, pmulLane_cast (ha.2 _ (wordAt_mem hma)) (hb.2 _ (wordAt_mem hmb))]

theorem zipWith_pmulLane_le (ha : isBuffer a) (hb : isBuffer b) : ∀ x ∈ List.zipWith pmulLane a b, x ≤ 16383 := by
  refine forall_mem_of_wordAt fun m hm => ?_
  obtain ⟨hma, hmb⟩ := lt_min_iff.1 (by rwa [List.length_zipWith] at hm)
  rw [wordAt_zipWith _ hma hmb]
  exact pmulLane_le (ha.2 _ (wordAt_mem hma)) (hb.2 _ (wordAt_mem hmb))

theorem isBuffer_nttWords (h : isBuffer a) : isBuffer (nttWords true .standard a) :=
  ⟨nttWords_length _ _ _ h.1, fun x hx => (nttWords_le true h x hx).trans_lt (by norm_num)⟩

/-- INTT of the lane product of two transforms: both have at the odd powers of PSI the values of the ring product. -/
theorem wordAt_inttWords_pmul (ha : isBuffer a) (hb : isBuffer b) (hk : k < 1024) :
    wordAt (inttWords .standard
      (List.zipWith pmulLane (nttWords true .standard a) (nttWords true .standard b))) k = ringMul a b k := by
  have hA := isBuffer_nttWords ha
  have hB := isBuffer_nttWords hb
  have hlen : (List.zipWith pmulLane (nttWords true .standard a) (nttWords true .standard b)).length = 1024 := by
    rw [List.length_zipWith, hA.1, hB.1, min_self]
  have hvalues : ∀ m < 1024,
      (wordAt (List.zipWith pmulLane (nttWords true .standard a) (nttWords true .standard b)) m : ZMod Q)
        = evalAt ((List.range 1024).map (ringMul a b)) ((PSI : Nat) ^ (2 * m + 1)) := fun m hm => by
    rw [wordAt_zipWith_pmulLane_cast hA hB hm, wordAt_nttWords_cast ha hm, wordAt_nttWords_cast hb hm,
      evalAt_ringMul (psi_odd_pow_1024 m)]
  rw [wordAt_inttWords hlen (zipWith_pmulLane_le hA hB) hk, inttMath_of_values hvalues hk, wordAt_map_range _ hk,
    Nat.mod_eq_of_lt (ringMul_lt a b k)]

end

end Sys2Proof.Machine
end

section
/-! The statement about the ring identity (spec/41_ntt.md R514). -/
namespace Sys2Proof.Machine

/-- Settles O49: without the forward permutation the transforms are those of the permuted words. -/
theorem ringIdentity : Obligations.RingIdentity := by
  intro a b ha hb k hk
  refine ⟨wordAt_inttWords_pmul ha hb hk, ?_⟩
  rw [nttWords_false ha.1, nttWords_false hb.1]
  exact wordAt_inttWords_pmul (isBuffer_permute ha) (isBuffer_permute hb) hk

end Sys2Proof.Machine
end

section
/-! SUPPORT. The encodings of a command whose row compares OPC and low bits only (spec/30_encoding.md R303): its buffer
fields are free, and every bit below them is 0. -/
namespace Sys2Proof

variable {r : OpcodeRow} {w : Word32} {i n : Nat}

/-- The words that decode to one of a row's commands are those that match the row. -/
theorem exists_decodeWord_eq_build_iff (hr : r ∈ opcodeTable) (w : Word32) :
    (∃ rd rs1 rs2, decodeWord w = .ok (r.build rd rs1 rs2)) ↔ w &&& r.mask = r.pattern := by
  constructor
  · rintro ⟨rd, rs1, rs2, hok⟩
    obtain ⟨r', hr', hmatch, hbuild⟩ := decodeWord_eq_ok_iff.1 hok
    rwa [← opcodeRow_eq_of_build_eq hr' hr hbuild]
  · exact fun hmatch => ⟨_, _, _, decodeWord_eq_ok_iff.2 ⟨r, hr, hmatch, rfl⟩⟩

theorem pattern_below_opcode : ∀ r ∈ opcodeTable, r.pattern.extractLsb' 0 24 = 0 := by decide

theorem getLsbD_pattern_below_opcode (hr : r ∈ opcodeTable) (hi : i < 24) : r.pattern.getLsbD i = false := by
  have hbit := congrArg (fun v => BitVec.getLsbD v i) (pattern_below_opcode r hr)
  simpa [hi] using hbit

theorem getLsbD_eq_of_fieldOpc_eq {v : Word32} (h : fieldOpc w = fieldOpc v) (hlo : 24 ≤ i) (hhi : i < 32) :
    w.getLsbD i = v.getLsbD i := by
  have hbit := congrArg (fun f => BitVec.getLsbD f (i - 24)) h
  simpa [fieldOpc, Nat.add_sub_cancel' hlo, show i - 24 < 8 by omega] using hbit

/-- A word matches a row that compares OPC and the n low bits when it has the row's opcode and those bits are 0. -/
theorem matches_iff_of_mask (hr : r ∈ opcodeTable) (hn : n ≤ 24)
    (hmask : ∀ i < 32, r.mask.getLsbD i = (decide (i < n) || decide (24 ≤ i))) (w : Word32) :
    w &&& r.mask = r.pattern ↔ fieldOpc w = fieldOpc r.pattern ∧ w.extractLsb' 0 n = 0 := by
  constructor
  · intro hmatch
    refine ⟨fieldOpc_eq_of_matches hr hmatch, BitVec.eq_of_getLsbD_eq fun i hi => ?_⟩
    have hbit := congrArg (fun v => BitVec.getLsbD v i) hmatch
    simpa [hmask i (by omega), getLsbD_pattern_below_opcode hr (hi.trans_le hn), hi] using hbit
  · rintro ⟨hopc, hlow⟩
    refine BitVec.eq_of_getLsbD_eq fun i hi => ?_
    rw [BitVec.getLsbD_and, hmask i hi]
    rcases Nat.lt_or_ge i 24 with hbelow | habove
    · rw [getLsbD_pattern_below_opcode hr hbelow]
      rcases Nat.lt_or_ge i n with hin | hout
      · have hbit := congrArg (fun v => BitVec.getLsbD v i) hlow
        simpa [hin] using hbit
      · simp [hout.not_gt, hbelow.not_ge]
    · simpa [habove] using getLsbD_eq_of_fieldOpc_eq hopc habove hi

/-- The encodings of a row that compares OPC and the n low bits. -/
theorem exists_decodeWord_iff_of_mask (hr : r ∈ opcodeTable) (hn : n ≤ 24)
    (hmask : ∀ i < 32, r.mask.getLsbD i = (decide (i < n) || decide (24 ≤ i))) (w : Word32) :
    (∃ rd rs1 rs2, decodeWord w = .ok (r.build rd rs1 rs2)) ↔
      fieldOpc w = fieldOpc r.pattern ∧ w.extractLsb' 0 n = 0 :=
  (exists_decodeWord_eq_build_iff hr w).trans (matches_iff_of_mask hr hn hmask w)

end Sys2Proof
end

section
/-! SUPPORT. A command that writes a buffer (spec/49_system.md R904): the field check of a well-formed command, the frame
of its last line, and the words the buffer then holds. -/
namespace Sys2Proof.Machine

variable {s : State} {rd : BufIdx} {ws : List Nat}

/-- A well-formed command passes the field check (R301). -/
theorem State.withFields_of_wf {i : Instr} (h : i.wf s.cfg.npoly = true) (k : State → State) :
    s.withFields i.usedFields k = k s := if_pos h

theorem State.isBuffer_poly (s : State) (p : BufIdx) : isBuffer (s.poly p) := ⟨s.poly_length p, s.poly_lt p⟩

theorem State.wordAt_poly_lt (s : State) (p : BufIdx) {k : Nat} (hk : k < 1024) : wordAt (s.poly p) k < 2 ^ 16 :=
  s.poly_lt p _ (wordAt_mem (by rwa [s.poly_length]))

/-- A buffer result changes the buffer, reports completion, and leaves everything else. -/
theorem State.finishPoly_wroteBuffer (hlen : ws.length = 1024) : WroteBuffer rd s.rng s (s.finishPoly rd ws) where
  bytes _ ha := s.read_writePoly_outside rd hlen ha
  rest := rfl

/-- Sixteen-bit words read back from the buffer as they were written. -/
theorem State.poly_finishPoly (h : isBuffer ws) : (s.finishPoly rd ws).poly rd = ws := by
  obtain ⟨hlen, hlt⟩ := h
  calc (s.finishPoly rd ws).poly rd
      = ws.map (· % 2 ^ 16) := s.poly_writePoly_same rd hlen
    _ = ws := by rw [List.map_congr_left fun x hx => Nat.mod_eq_of_lt (hlt x hx), List.map_id']

end Sys2Proof.Machine
end

section
/-! SUPPORT. The lanes of PMUL, PADD and CANON (spec/42_polyarith.md R600 to R604): their ranges and congruences, and the
states PMUL and CANON leave. -/
namespace Sys2Proof.Machine

/-! ## Lanes -/

section
variable {a b : Nat}

/-- The bound R604 gives for the second factor of PMUL. By R404 it is at most 13085; for each of the 21 values above
13064 the exact sum of R403 fixes b modulo Q and bounds it from below, and no 16-bit b meets both. -/
theorem pmulFactor_le_13064 (hb : b < 2 ^ 16) : mr (R2MODQ * b) ≤ 13064 := by
  have hle : mr (3186 * b) ≤ 13085 := pmulFactor_le hb
  have hsum : mr (3186 * b) * 262144 = 3186 * b + trunc 18 (3186 * b * QINV) * 12289 := mr_mul_R (by omega)
  have hmultiple : trunc 18 (3186 * b * QINV) < 262144 := trunc_lt 18 _
  by_contra! hgt
  generalize mr (R2MODQ * b) = m at hle hsum hgt
  generalize trunc 18 (3186 * b * QINV) = k at hsum hmultiple
  interval_cases m <;> omega

theorem pmulLane_le_15554 (ha : a < 2 ^ 16) (hb : b < 2 ^ 16) : pmulLane a b ≤ 15554 := by
  have hprod : a * mr (R2MODQ * b) ≤ 65535 * 13064 := Nat.mul_le_mul (Nat.le_of_lt_succ ha) (pmulFactor_le_13064 hb)
  have hmr : pmulLane a b ≤ a * mr (R2MODQ * b) / 2 ^ 18 + 12289 := mr_le_div_add_Q (by omega)
  omega

theorem pmulLane_mod_Q (ha : a < 2 ^ 16) (hb : b < 2 ^ 16) : pmulLane a b % Q = a * b % Q := by
  refine (ZMod.natCast_eq_natCast_iff' _ _ Q).1 ?_
  rw [pmulLane_cast ha hb, Nat.cast_mul]

theorem paddLane_le (a b : Nat) : paddLane a b ≤ 16379 := br_le (trunc_lt 16 _)

/-- PADD adds modulo 2^16 before it reduces (R602). -/
theorem paddLane_mod_Q (a b : Nat) : paddLane a b % Q = (a + b) % 2 ^ 16 % Q := br_mod_Q _

theorem canon16_lt_Q (ha : a < 2 ^ 16) : canon16 a < Q := by
  rw [canon16_eq_mod ha]
  exact Nat.mod_lt _ (by norm_num)

end

/-! ## Commands -/

section
variable {rd rs1 rs2 : BufIdx} {s : State}

theorem exec_pmul_of_wf (h : (Instr.pmul rd rs1 rs2).wf s.cfg.npoly = true) :
    exec (.pmul rd rs1 rs2) s = .next (s.finishPoly rd (List.zipWith pmulLane (s.poly rs1) (s.poly rs2))) :=
  congrArg Host.Outcome.next (State.withFields_of_wf h _)

theorem exec_canon_of_wf (h : (Instr.canon rd rs1).wf s.cfg.npoly = true) :
    exec (.canon rd rs1) s = .next (s.finishPoly rd ((s.poly rs1).map canon16)) :=
  congrArg Host.Outcome.next (State.withFields_of_wf h _)

theorem isBuffer_zipWith_pmulLane {x y : List Nat} (hx : isBuffer x) (hy : isBuffer y) :
    isBuffer (List.zipWith pmulLane x y) :=
  ⟨by rw [List.length_zipWith, hx.1, hy.1, min_self],
    fun v hv => (zipWith_pmulLane_le hx hy v hv).trans_lt (by norm_num)⟩

theorem isBuffer_map_canon16 {x : List Nat} (hx : isBuffer x) : isBuffer (x.map canon16) := by
  refine ⟨by rw [List.length_map, hx.1], List.forall_mem_map.2 fun v hv => ?_⟩
  exact (canon16_lt_Q (hx.2 v hv)).trans (by norm_num)

end

end Sys2Proof.Machine
end

section
/-! The statements about PMUL, CANON and the output ranges (spec/42_polyarith.md R601, R603, R604). -/
namespace Sys2Proof.Machine

/-- Settles O38: each lane's bound and congruence; PADD's sum is cut to 16 bits exactly where it wraps. -/
theorem polyArithRanges : Obligations.PolyArithRanges := by
  refine ⟨fun a b ha hb => ⟨pmulLane_le_15554 ha hb, pmulLane_mod_Q ha hb⟩, fun a b _ _ hsum => ⟨paddLane_le a b, ?_⟩,
    fun a b ha hb hsum => ⟨paddLane_le a b, ?_⟩, fun a ha => ⟨canon16_lt_Q ha, ?_⟩, fun b => pmulFactor_le_13064⟩
  · have hfits : (a + b) % 2 ^ 16 = a + b := Nat.mod_eq_of_lt (Nat.lt_succ_of_le hsum)
    rw [paddLane_mod_Q, hfits]
  · have hwraps : (a + b) % 2 ^ 16 = a + b - 65536 := by omega
    rw [paddLane_mod_Q, hwraps]
  · rw [canon16_eq_mod ha, Nat.mod_mod]

/-- Settles O35: RD holds the lane products, whose properties are those of `pmulLane` on the source words. -/
theorem pmulResult : Obligations.PmulResult := by
  refine ⟨fun rd rs1 rs2 s hwf => ?_,
    exists_decodeWord_iff_of_mask (r := ⟨0x20000000, 0xFF000FFF, fun d a b => .pmul d a b⟩)
      (by simp [opcodeTable]) (n := 12) (by norm_num) (by decide),
    by decide, by decide⟩
  have hws := isBuffer_zipWith_pmulLane (s.isBuffer_poly rs1) (s.isBuffer_poly rs2)
  refine ⟨_, exec_pmul_of_wf hwf, State.finishPoly_wroteBuffer hws.1, fun k hk => ?_⟩
  have ha := s.wordAt_poly_lt rs1 hk
  have hb := s.wordAt_poly_lt rs2 hk
  rw [State.poly_finishPoly hws, wordAt_zipWith _ (by rwa [s.poly_length]) (by rwa [s.poly_length])]
  exact ⟨rfl, pmulLane_mod_Q ha hb, pmulLane_le_15554 ha hb⟩

/-- Settles O37: RD holds CANON16 of the source words, which is the residue. -/
theorem canonResult : Obligations.CanonResult := by
  refine ⟨fun rd rs1 s hwf => ?_, fun w => ?_, by decide, by decide, by decide⟩
  · have hws := isBuffer_map_canon16 (s.isBuffer_poly rs1)
    refine ⟨_, exec_canon_of_wf hwf, State.finishPoly_wroteBuffer hws.1, fun k hk => ?_⟩
    rw [State.poly_finishPoly hws, wordAt_map _ (by rwa [s.poly_length])]
    exact canon16_eq_mod (s.wordAt_poly_lt rs1 hk)
  · have hencodings : (∃ rd rs1, ∃ _ : BufIdx, decodeWord w = .ok (.canon rd rs1)) ↔
        fieldOpc w = 0x22 ∧ w.extractLsb' 0 16 = 0 :=
      exists_decodeWord_iff_of_mask (r := ⟨0x22000000, 0xFF00FFFF, fun d a _ => .canon d a⟩)
        (by simp [opcodeTable]) (n := 16) (by norm_num) (by decide) w
    simpa only [exists_const] using hencodings

end Sys2Proof.Machine
end

section
/-! SUPPORT. Draws at the RNG port by the answers it gives (spec/43_sampling.md R702), for the commands that draw a fixed
number of bytes, and the frame of such a command. -/
namespace Sys2Proof.Machine

theorem Rng.answer_skip (r : Rng) (n k : Nat) : (r.skip n).answer k = r.answer (n + k) := by
  have hlt : k < r.answers.length - n ↔ n + k < r.answers.length := by omega
  simp [Rng.answer, Rng.skip, hlt, List.getD_eq_getElem?_getD, Nat.add_assoc]

theorem Rng.next_eq_answer (r : Rng) : r.next = (r.answer 0, r.skip 1) := by
  rw [Rng.next_eq]
  rcases r with ⟨_ | ⟨a, l⟩, n⟩ <;> rfl

theorem Rng.draw_succ_of_fail {r : Rng} (h : r.answer 0 = none) (n : Nat) : r.draw (n + 1) = (none, r.skip 1) := by
  rw [Rng.draw, Rng.next_eq_answer, h]

theorem Rng.draw_succ_of_byte {r : Rng} {b : Byte} (h : r.answer 0 = some b) (n : Nat) :
    r.draw (n + 1) = (((r.skip 1).draw n).1.map (b :: ·), ((r.skip 1).draw n).2) := by
  rw [Rng.draw, Rng.next_eq_answer, h]
  dsimp only
  rcases (r.skip 1).draw n with ⟨_ | bs, r'⟩ <;> rfl

/-- Draws that all succeed give the bytes answered. -/
theorem Rng.draw_of_bytes {bs : List Byte} {r : Rng} (h : ∀ k < bs.length, r.answer k = some (byteAt bs k)) :
    r.draw bs.length = (some bs, r.skip bs.length) := by
  induction bs generalizing r with
  | nil => rfl
  | cons b bs ih =>
    have hrest : ∀ k < bs.length, (r.skip 1).answer k = some (byteAt bs k) := fun k hk => by
      rw [Rng.answer_skip, Nat.add_comm]
      exact h (k + 1) (Nat.succ_lt_succ hk)
    rw [List.length_cons, Rng.draw_succ_of_byte (h 0 (Nat.succ_pos _)), ih hrest, Rng.skip_skip, Nat.add_comm]
    rfl

/-- The first FAIL ends the draws; it and the answers before it are taken. -/
theorem Rng.draw_of_first_fail {n j : Nat} {r : Rng} (hj : j < n) (hfail : r.answer j = none)
    (hbefore : ∀ k < j, r.answer k ≠ none) : r.draw n = (none, r.skip (j + 1)) := by
  induction n generalizing j r with
  | zero => exact absurd hj (Nat.not_lt_zero j)
  | succ n ih =>
    cases j with
    | zero => exact Rng.draw_succ_of_fail hfail n
    | succ j =>
      obtain ⟨b, hb⟩ := Option.ne_none_iff_exists'.1 (hbefore 0 (Nat.succ_pos j))
      have hrest : (r.skip 1).draw n = (none, (r.skip 1).skip (j + 1)) := by
        refine ih (Nat.lt_of_succ_lt_succ hj) ?_ fun k hk => ?_
        · rwa [Rng.answer_skip, Nat.add_comm]
        · rw [Rng.answer_skip, Nat.add_comm]
          exact hbefore (k + 1) (Nat.succ_lt_succ hk)
      rw [Rng.draw_succ_of_byte hb, hrest, Rng.skip_skip, Nat.add_comm 1]
      rfl

/-- A buffer result after draws changes the RNG port as well. -/
theorem State.finishPoly_wroteBuffer_of_drawn {s : State} {rd : BufIdx} {ws : List Nat} (r : Rng)
    (hlen : ws.length = 1024) : WroteBuffer rd r s ({ s with rng := r }.finishPoly rd ws) where
  bytes _ ha := s.read_writePoly_outside rd hlen ha
  rest := rfl

end Sys2Proof.Machine
end

section
/-! SUPPORT. The noise coefficients (spec/43_sampling.md R710): their range, and that word i of NOISE's result is the
coefficient of bytes 4i to 4i+3; and the states NOISE leaves (R711). -/
namespace Sys2Proof.Machine

/-! ## Coefficients -/

theorem popcount_le (b : Byte) : popcount b ≤ 8 := by
  have hbit : ∀ x ∈ (List.range 8).map fun j => (b.toNat >>> j) % 2, x ≤ 1 :=
    List.forall_mem_map.2 fun j _ => Nat.le_of_lt_succ (Nat.mod_lt _ Nat.two_pos)
  exact List.sum_le_card_nsmul _ 1 hbit

/-- A difference of two numbers of at most 16, modulo Q, is within 16 of 0. -/
theorem noisec_range (b0 b1 b2 b3 : Byte) :
    noisec b0 b1 b2 b3 ≤ 16 ∨ 12273 ≤ noisec b0 b1 b2 b3 ∧ noisec b0 b1 b2 b3 ≤ 12288 := by
  have h0 := popcount_le b0
  have h1 := popcount_le b1
  have h2 := popcount_le b2
  have h3 := popcount_le b3
  have hdef : noisec b0 b1 b2 b3
      = ((((popcount b0 + popcount b1 : Nat) : Int) - ((popcount b2 + popcount b3 : Nat) : Int)) % 12289).toNat := rfl
  omega

theorem wordAt_noiseWords : ∀ (bs : List Byte) (i : Nat), i < bs.length / 4 →
    wordAt (noiseWords bs) i
      = noisec (byteAt bs (4 * i)) (byteAt bs (4 * i + 1)) (byteAt bs (4 * i + 2)) (byteAt bs (4 * i + 3))
  | _ :: _ :: _ :: _ :: _, 0, _ => rfl
  | _ :: _ :: _ :: _ :: bs, i + 1, h => wordAt_noiseWords bs i (by simp only [List.length_cons] at h; omega)
  | [], _, h | [_], _, h | [_, _], _, h | [_, _, _], _, h => absurd h (by simp)

theorem isBuffer_noiseWords {bs : List Byte} (h : bs.length = 4096) : isBuffer (noiseWords bs) := by
  have hlen : (noiseWords bs).length = bs.length / 4 := noiseWords_length bs
  refine ⟨by rw [hlen, h], forall_mem_of_wordAt fun i hi => ?_⟩
  rw [wordAt_noiseWords bs i (by rwa [← hlen])]
  have := noisec_range (byteAt bs (4 * i)) (byteAt bs (4 * i + 1)) (byteAt bs (4 * i + 2)) (byteAt bs (4 * i + 3))
  omega

/-! ## NOISE -/

section
variable {rd : BufIdx} {s : State} {r : Rng}

theorem exec_noise_of_draw {bs : List Byte} (hwf : (Instr.noise rd).wf s.cfg.npoly = true)
    (hdraw : s.rng.draw 4096 = (some bs, r)) :
    exec (.noise rd) s = .next ({ s with rng := r }.finishPoly rd (noiseWords bs)) := by
  refine congrArg Host.Outcome.next ((State.withFields_of_wf hwf _).trans ?_)
  rw [hdraw]

theorem exec_noise_of_fail (hwf : (Instr.noise rd).wf s.cfg.npoly = true) (hdraw : s.rng.draw 4096 = (none, r)) :
    exec (.noise rd) s = .next ({ s with rng := r }.raise .entropyFail) := by
  refine congrArg Host.Outcome.next ((State.withFields_of_wf hwf _).trans ?_)
  rw [hdraw]

end

end Sys2Proof.Machine
end

section
/-! The statement about NOISE (spec/43_sampling.md R711). -/
namespace Sys2Proof.Machine

/-- Settles O54: the draws follow the port's answers, and each outcome of the draws fixes the state NOISE leaves. -/
theorem noiseResult : Obligations.NoiseResult := by
  refine ⟨fun rd s hwf => ⟨fun bs hlen hbytes => ?_, fun j hj hfail hbefore => ?_⟩, fun w => ?_,
    by decide, by decide, by decide, by decide, by decide⟩
  · have hdraw : s.rng.draw 4096 = (some bs, s.rng.skip 4096) := hlen ▸ Rng.draw_of_bytes (hlen.symm ▸ hbytes)
    have hws := isBuffer_noiseWords hlen
    refine ⟨_, exec_noise_of_draw hwf hdraw, State.finishPoly_wroteBuffer_of_drawn _ hws.1, fun i hi => ?_⟩
    rw [State.poly_finishPoly hws, wordAt_noiseWords bs i (by omega)]
    exact ⟨rfl, noisec_range _ _ _ _⟩
  · exact exec_noise_of_fail hwf (Rng.draw_of_first_fail hj hfail hbefore)
  · have hencodings : (∃ rd, ∃ _ _ : BufIdx, decodeWord w = .ok (.noise rd)) ↔
        fieldOpc w = 0x31 ∧ w.extractLsb' 0 20 = 0 :=
      exists_decodeWord_iff_of_mask (r := ⟨0x31000000, 0xFF0FFFFF, fun d _ _ => .noise d⟩)
        (by simp [opcodeTable]) (n := 20) (by norm_num) (by decide) w
    simpa only [exists_const] using hencodings

end Sys2Proof.Machine
end

section
/-! SUPPORT. The decoders F and G of reconciliation (spec/44_reconciliation.md R802, R803) in plain arithmetic: the
multiples they choose, their distances, and what a whole number of periods 8Q does to them (R813). -/
namespace Sys2Proof.Machine

theorem absDiff_cast (x y : Nat) : (absDiff x y : Int) = |(x : Int) - y| := Int.natCast_natAbs _

section
variable (x n : Nat)

/-! ## The one-dimensional decode F -/

/-- v0's multiple of 2Q is the nearest, an x halfway between two taking the upper. -/
theorem fV0_nearest : 2 * Q * fV0 x ≤ x + Q ∧ x < 2 * Q * fV0 x + Q := by
  simp only [fV0, Q]
  omega

theorem fV1_below : 2 * Q * fV1 x ≤ x ∧ x < 2 * Q * fV1 x + 2 * Q := by
  simp only [fV1, Q]
  omega

theorem fM_cast : (fM x : Int) = |(x : Int) - 2 * Q * fV0 x| := by
  rw [fM, absDiff_cast]
  push_cast
  rfl

theorem fM_le : fM x ≤ Q := by
  obtain ⟨hle, hlt⟩ := fV0_nearest x
  rw [← Int.ofNat_le, fM_cast, abs_le]
  unfold Q at *
  omega

theorem fV0_add_periods : fV0 (x + 8 * Q * n) = fV0 x + 4 * n := by
  simp only [fV0, Q]
  omega

theorem fV1_add_periods : fV1 (x + 8 * Q * n) = fV1 x + 4 * n := by
  simp only [fV1, Q]
  omega

theorem fM_add_periods : fM (x + 8 * Q * n) = fM x := by
  rw [fM, fM, fV0_add_periods, absDiff, absDiff]
  congr 1
  push_cast
  ring

/-! ## The distance function G -/

/-- The index of the multiple of 8Q that G measures to. -/
def nearestMultiple (x : Nat) : Nat := (x / (4 * Q) + 1) / 2

theorem distG_cast : (distG x : Int) = |8 * (Q : Int) * nearestMultiple x - x| := by
  rw [distG, absDiff_cast]
  push_cast
  rfl

theorem nearestMultiple_within : 8 * Q * nearestMultiple x ≤ x + 4 * Q ∧ x ≤ 8 * Q * nearestMultiple x + 4 * Q := by
  simp only [nearestMultiple, Q]
  omega

theorem distG_le : (distG x : Int) ≤ 4 * Q := by
  obtain ⟨hle, hge⟩ := nearestMultiple_within x
  rw [distG_cast, abs_le]
  unfold Q at *
  omega

/-- Every multiple but the nearest is 8Q or more from the nearest, so at least 4Q from x. -/
theorem four_mul_Q_le_of_ne {m : Nat} (h : m ≠ nearestMultiple x) : 4 * (Q : Int) ≤ |8 * (Q : Int) * m - x| := by
  obtain ⟨hle, hge⟩ := nearestMultiple_within x
  rw [le_abs]
  unfold Q at *
  omega

theorem distG_le_distance (m : Nat) : (distG x : Int) ≤ |8 * (Q : Int) * m - x| := by
  rcases eq_or_ne m (nearestMultiple x) with rfl | hne
  · exact (distG_cast x).le
  · exact (distG_le x).trans (four_mul_Q_le_of_ne x hne)

theorem nearestMultiple_add_periods : nearestMultiple (x + 8 * Q * n) = nearestMultiple x + n := by
  simp only [nearestMultiple, Q]
  omega

theorem distG_add_periods : distG (x + 8 * Q * n) = distG x := by
  rw [← Int.ofNat_inj, distG_cast, distG_cast, nearestMultiple_add_periods]
  congr 1
  push_cast
  ring

end

end Sys2Proof.Machine
end

section
/-! The statements about the decoders F and G (spec/44_reconciliation.md R802, R803). -/
namespace Sys2Proof.Machine

/-- Settles O55: v0's and v1's multiples enclose x, and m is at most half their spacing. -/
theorem oneDimensionalDecode : Obligations.OneDimensionalDecode := by
  refine ⟨by decide, fun x => ?_⟩
  obtain ⟨hle0, hlt0⟩ := fV0_nearest x
  obtain ⟨hle1, hlt1⟩ := fV1_below x
  exact ⟨hle0, hlt0, fM_le x, fM_cast x, hle1, hlt1⟩

/-- Settles O56: G measures to `nearestMultiple`, and no other multiple is nearer than 4Q. -/
theorem distanceToNearestMultiple : Obligations.DistanceToNearestMultiple :=
  ⟨fun x => ⟨⟨nearestMultiple x, distG_cast x⟩, distG_le_distance x⟩, by decide⟩

end Sys2Proof.Machine
end

section
/-! SUPPORT. The encodings of REC (spec/30_encoding.md R303): a word is its five fields, and REC's row compares all but
RS1 and RS2. -/
namespace Sys2Proof

/-- A command word is its fields OPC, RD, RS1, RS2 and RSVD (R300). -/
theorem append_fields (w : Word32) :
    fieldOpc w ++ fieldRd w ++ fieldRs1 w ++ fieldRs2 w ++ w.extractLsb' 0 12 = w := by
  ext i hi
  simp [fieldOpc, fieldRd, fieldRs1, fieldRs2]
  grind

theorem eq_iff_fields_eq {v w : Word32} :
    v = w ↔ fieldOpc v = fieldOpc w ∧ fieldRd v = fieldRd w ∧ fieldRs1 v = fieldRs1 w ∧ fieldRs2 v = fieldRs2 w ∧
      v.extractLsb' 0 12 = w.extractLsb' 0 12 := by
  refine ⟨fun h => by simp [h], ?_⟩
  rintro ⟨hopc, hrd, hrs1, hrs2, hrsvd⟩
  rw [← append_fields v, ← append_fields w, hopc, hrd, hrs1, hrs2, hrsvd]

section
variable (v w : Word32)

theorem fieldOpc_and : fieldOpc (v &&& w) = fieldOpc v &&& fieldOpc w := BitVec.extractLsb'_and
theorem fieldRd_and : fieldRd (v &&& w) = fieldRd v &&& fieldRd w := BitVec.extractLsb'_and
theorem fieldRs1_and : fieldRs1 (v &&& w) = fieldRs1 v &&& fieldRs1 w := BitVec.extractLsb'_and
theorem fieldRs2_and : fieldRs2 (v &&& w) = fieldRs2 v &&& fieldRs2 w := BitVec.extractLsb'_and

end

/-- REC's row leaves RS1 and RS2 free, and fixes the other fields. -/
theorem matches_reconcile_iff (w : Word32) :
    w &&& 0xFFF00FFF = 0x41000000 ↔ fieldOpc w = 0x41 ∧ fieldRd w = 0 ∧ w.extractLsb' 0 12 = 0 := by
  obtain ⟨hopc, hrd, hrs1, hrs2, hrsvd⟩ : fieldOpc 0xFFF00FFF = BitVec.allOnes 8 ∧
      fieldRd 0xFFF00FFF = BitVec.allOnes 4 ∧ fieldRs1 0xFFF00FFF = 0 ∧ fieldRs2 0xFFF00FFF = 0 ∧
      (0xFFF00FFF : Word32).extractLsb' 0 12 = BitVec.allOnes 12 := by decide
  rw [eq_iff_fields_eq, fieldOpc_and, fieldRd_and, fieldRs1_and, fieldRs2_and, BitVec.extractLsb'_and, hopc, hrd, hrs1,
    hrs2, hrsvd]
  simp only [BitVec.and_allOnes]
  simp [fieldOpc, fieldRd, fieldRs1, fieldRs2]

end Sys2Proof
end

section
/-! SUPPORT. The groups of a buffer (spec/44_reconciliation.md R800) and the key bits in KEY (spec/10_state.md R121). -/
namespace Sys2Proof.Machine

theorem groups_eq_map_groupAt {a : List Nat} (h : a.length = 1024) : groups a = (List.range 256).map (groupAt a) := by
  have hlen : (groups a).length = ((List.range 256).map (groupAt a)).length := by
    rw [groups_length a h, List.length_map, List.length_range]
  refine List.ext_getElem hlen fun i hi _ => ?_
  have hgroup : (groups a)[i]? = some (groupAt a i) := groups_getElem? a h (groups_length a h ▸ hi)
  rw [List.getElem_map, List.getElem_range, (List.getElem?_eq_some_iff.1 hgroup).2]

/-- Key bit i comes from group i alone (R800). -/
theorem recBits_getD (invert : Bool) {v c : List Nat} (hv : v.length = 1024) (hc : c.length = 1024) {i : Nat}
    (hi : i < 256) : (recBits invert v c).getD i false = recBit invert (groupAt v i) (groupAt c i) := by
  simp [recBits, groups_eq_map_groupAt hv, groups_eq_map_groupAt hc, hi]

/-! ## KEY -/

/-- Bits shifted in one by one, the last first, stand in the order of the list. -/
theorem getLsbD_foldr_shiftIn : ∀ (bits : List Bool) {j : Nat}, j < 32 →
    (bits.foldr (fun b (acc : Word32) => (acc <<< 1) ||| bitAt 0 b) 0).getLsbD j = bits.getD j false
  | [], j, _ => by simp
  | b :: bits, 0, _ => by
    rw [List.foldr_cons, BitVec.getLsbD_or, BitVec.getLsbD_shiftLeft, getLsbD_bitAt (by decide)]
    simp
  | b :: bits, j + 1, h => by
    have hrest := getLsbD_foldr_shiftIn bits (show j < 32 by omega)
    rw [List.foldr_cons, BitVec.getLsbD_or, BitVec.getLsbD_shiftLeft, getLsbD_bitAt (by decide), Nat.add_sub_cancel,
      hrest]
    simp [h]

theorem keyWord_getLsbD (bits : List Bool) (k : Nat) {j : Nat} (hj : j < 32) :
    (keyWord bits k).getLsbD j = bits.getD (32 * k + j) false := by
  rw [keyWord, getLsbD_foldr_shiftIn _ hj]
  simp [hj]

theorem keyOfBits_toList (bits : List Bool) : (keyOfBits bits).toList = (List.range 8).map (keyWord bits) := rfl

/-- Bit i of the key is bit i mod 32 of KEY(i div 32) (R121). -/
theorem keyOfBits_getLsbD (bits : List Bool) {i : Nat} (hi : i < 256) :
    ((keyOfBits bits).toList.getD (i / 32) 0).getLsbD (i % 32) = bits.getD i false := by
  have hword : (keyOfBits bits).toList.getD (i / 32) 0 = keyWord bits (i / 32) := by
    simp [keyOfBits_toList, show i / 32 < 8 by omega]
  rw [hword, keyWord_getLsbD bits _ (by omega), Nat.div_add_mod]

end Sys2Proof.Machine
end

section
/-! SUPPORT. REC by its recombined values (spec/44_reconciliation.md R811), and the state it leaves. -/
namespace Sys2Proof.Machine

/-- A lane of the vector recombined with k hint units of Q (R811): x0 to x3. -/
def recX (v k : Nat) : Nat := 16 * Q + 8 * v - Q * k

theorem recBit_eq (invert : Bool) (v c : Lanes) :
    recBit invert v c = ldd invert (recX v.l0 (2 * (c.l0 % 4) + c.l3 % 4)) (recX v.l1 (2 * (c.l1 % 4) + c.l3 % 4))
      (recX v.l2 (2 * (c.l2 % 4) + c.l3 % 4)) (recX v.l3 (c.l3 % 4)) := rfl

/-- Two helper bits a lane give at most 9 hint units, so no subtraction of R811 is cut off at 0. -/
theorem recX_ge (v : Nat) {k : Nat} (hk : k ≤ 9) : 7 * Q ≤ recX v k := by
  simp only [recX, Q]
  omega

variable {rs1 rs2 : BufIdx} {s : State}

theorem exec_reconcile_of_wf (h : (Instr.reconcile rs1 rs2).wf s.cfg.npoly = true) :
    exec (.reconcile rs1 rs2) s
      = .next (s.finishKey (keyOfBits (recBits s.cfg.recInvert (s.poly rs1) (s.poly rs2)))) :=
  congrArg Host.Outcome.next (State.withFields_of_wf h _)

end Sys2Proof.Machine
end

section
/-! The statement about REC (spec/44_reconciliation.md R811). -/
namespace Sys2Proof.Machine

/-- Settles O58: bit i of KEY is the key bit of group i, whose recombined values are those of `recX`. -/
theorem recResult : Obligations.RecResult := by
  refine ⟨fun rs1 rs2 s hwf => ⟨_, exec_reconcile_of_wf hwf, rfl, fun i hi => ?_⟩, fun w => ?_⟩
  · refine ⟨recX_ge _ (by omega), recX_ge _ (by omega), recX_ge _ (by omega), recX_ge _ (by omega), ?_⟩
    rw [State.finishKey_key, keyOfBits_getLsbD _ hi, recBits_getD _ (s.poly_length rs1) (s.poly_length rs2) hi]
    rfl
  · have hencodings : (∃ _ rs1 rs2 : BufIdx, decodeWord w = .ok (.reconcile rs1 rs2)) ↔ w &&& 0xFFF00FFF = 0x41000000 :=
      exists_decodeWord_eq_build_iff (r := ⟨0x41000000, 0xFFF00FFF, fun _ a b => .reconcile a b⟩)
        (by simp [opcodeTable]) w
    rw [← matches_reconcile_iff, ← hencodings, exists_const]

end Sys2Proof.Machine
end

section
/-! SUPPORT. HELPREC and REC on the vector modulo Q (spec/44_reconciliation.md R813): a word is its residue and a whole
number of Qs, which are as many periods 8Q in its lane value. -/
namespace Sys2Proof.Machine

/-! ## Lanes modulo Q -/

/-- A function applied to each lane of a group. -/
def Lanes.map (f : Nat → Nat) (v : Lanes) : Lanes := ⟨f v.l0, f v.l1, f v.l2, f v.l3⟩

section
variable (f : Nat → Nat) (v : Lanes)

@[simp] theorem Lanes.map_l0 : (v.map f).l0 = f v.l0 := rfl
@[simp] theorem Lanes.map_l1 : (v.map f).l1 = f v.l1 := rfl
@[simp] theorem Lanes.map_l2 : (v.map f).l2 = f v.l2 := rfl
@[simp] theorem Lanes.map_l3 : (v.map f).l3 = f v.l3 := rfl

end

theorem groupAt_map (f : Nat → Nat) {a : List Nat} (h : a.length = 1024) {i : Nat} (hi : i < 256) :
    groupAt (a.map f) i = (groupAt a i).map f := by
  simp only [groupAt, Lanes.map]
  rw [wordAt_map f (by omega), wordAt_map f (by omega), wordAt_map f (by omega), wordAt_map f (by omega)]

theorem groups_map (f : Nat → Nat) {a : List Nat} (h : a.length = 1024) :
    groups (a.map f) = (groups a).map (Lanes.map f) := by
  rw [groups_eq_map_groupAt h, groups_eq_map_groupAt ((List.length_map _).trans h), List.map_map]
  exact List.map_congr_left fun i hi => groupAt_map f h (List.mem_range.1 hi)

/-! ## HELPREC -/

section
variable (v rbit : Nat)

theorem helpX_eq_add_periods : helpX v rbit = helpX (v % Q) rbit + 8 * Q * (v / Q) := by
  simp only [helpX, Q]
  omega

theorem fM_helpX_mod : fM (helpX (v % Q) rbit) = fM (helpX v rbit) := by
  rw [helpX_eq_add_periods v, fM_add_periods]

/-- The Qs in a word raise both candidates by 4 each. -/
theorem helpVt_eq_add (sel : Nat) : helpVt sel v rbit = helpVt sel (v % Q) rbit + 4 * (v / Q) := by
  simp only [helpVt]
  rw [helpX_eq_add_periods v, fV0_add_periods, fV1_add_periods, ite_add]

end

theorem diffMod4_add (x y m n : Nat) : diffMod4 (x + 4 * m) (y + 4 * n) = diffMod4 x y := by
  have hdiff : ((x + 4 * m : Nat) : Int) - ((y + 4 * n : Nat) : Int) = (x : Int) - y + ((m : Int) - n) * 4 := by
    push_cast
    ring
  rw [diffMod4, hdiff]
  exact congrArg Int.toNat (Int.add_mul_emod_self_right ..)

theorem helpK_mod (v : Lanes) (rbit : Nat) : helpK (v.map (· % Q)) rbit = helpK v rbit := by
  simp only [helpK, Lanes.map_l0, Lanes.map_l1, Lanes.map_l2, Lanes.map_l3, fM_helpX_mod]

theorem helpSel_mod (v : Lanes) (rbit : Nat) : helpSel (v.map (· % Q)) rbit = helpSel v rbit := by
  rw [helpSel, helpSel, helpK_mod]

/-- The helper words of a group are differences and sums modulo 4, in which the 4s of each candidate vanish. -/
theorem helpGroup_mod (v : Lanes) (rbit : Nat) : helpGroup (v.map (· % Q)) rbit = helpGroup v rbit := by
  rw [helpGroup, helpGroup, helpSel_mod]
  simp only [Lanes.map_l0, Lanes.map_l1, Lanes.map_l2, Lanes.map_l3]
  rw [helpVt_eq_add v.l0, helpVt_eq_add v.l1, helpVt_eq_add v.l2, helpVt_eq_add v.l3, diffMod4_add, diffMod4_add,
    diffMod4_add]
  congr 1
  omega

theorem helprecWords_mod {v : List Nat} (h : v.length = 1024) (bs : List Byte) :
    helprecWords (v.map (· % Q)) bs = helprecWords v bs := by
  simp only [helprecWords, groups_map _ h, List.zipWith_map_left, helpGroup_mod]

/-! ## REC -/

theorem distG_recX_mod (v : Nat) {k : Nat} (hk : k ≤ 9) : distG (recX (v % Q) k) = distG (recX v k) := by
  have hperiods : recX v k = recX (v % Q) k + 8 * Q * (v / Q) := by
    simp only [recX, Q]
    omega
  rw [hperiods, distG_add_periods]

/-- LDD sees only the distances of its arguments (R804). -/
theorem ldd_congr {x0 x1 x2 x3 y0 y1 y2 y3 : Nat} (invert : Bool) (h0 : distG x0 = distG y0) (h1 : distG x1 = distG y1)
    (h2 : distG x2 = distG y2) (h3 : distG x3 = distG y3) : ldd invert x0 x1 x2 x3 = ldd invert y0 y1 y2 y3 := by
  rw [ldd, ldd, h0, h1, h2, h3]

theorem recBit_mod (invert : Bool) (v c : Lanes) : recBit invert (v.map (· % Q)) c = recBit invert v c := by
  rw [recBit_eq, recBit_eq]
  exact ldd_congr invert (distG_recX_mod _ (by omega)) (distG_recX_mod _ (by omega)) (distG_recX_mod _ (by omega))
    (distG_recX_mod _ (by omega))

theorem recBits_mod (invert : Bool) {v : List Nat} (h : v.length = 1024) (c : List Nat) :
    recBits invert (v.map (· % Q)) c = recBits invert v c := by
  simp only [recBits, groups_map _ h, List.zipWith_map_left, recBit_mod]

end Sys2Proof.Machine
end

section
/-! The statement about modular invariance (spec/44_reconciliation.md R813). -/
namespace Sys2Proof.Machine

/-- Settles O59: one period moves F's candidates by 4; and both commands are functions of the vector modulo Q. -/
theorem reconciliationIsModularInQ : Obligations.ReconciliationIsModularInQ := by
  refine ⟨fun x => ⟨fV0_add_periods x 1, fV1_add_periods x 1, fM_add_periods x 1, distG_add_periods x 1⟩,
    fun v v' hv hv' hmod => ⟨fun bs _ => ?_, fun invert c _ => ?_⟩⟩
  · rw [← helprecWords_mod hv, hmod, helprecWords_mod hv']
  · rw [← recBits_mod invert hv, hmod, recBits_mod invert hv']

end Sys2Proof.Machine
end

section
/-! SUPPORT. When a word whose opcode is assigned is refused by its reserved bits (spec/60_exceptions.md R1002), and
the row of NOP (spec/30_encoding.md R303). -/
namespace Sys2Proof

/-- An assigned opcode whose row the word does not match is a RESFIELD error (R1002). -/
theorem decodeWord_eq_resfield_of_not_matches {r : OpcodeRow} {w : Word32} (hr : r ∈ opcodeTable)
    (hopc : fieldOpc w = fieldOpc r.pattern) (hne : w &&& r.mask ≠ r.pattern) : decodeWord w = .error .resfield := by
  rw [decodeWord, rowOf_eq_some_iff.2 ⟨hr, hopc.symm⟩]
  exact if_neg hne

/-- The row of NOP, which compares every bit of the word. -/
abbrev nopRow : OpcodeRow := ⟨0x00000000, 0xFFFFFFFF, fun _ _ _ => .nop⟩

theorem nopRow_mem : nopRow ∈ opcodeTable := List.mem_cons_self

theorem decodeWord_eq_nop_iff (w : Word32) : decodeWord w = .ok .nop ↔ w = 0 :=
  decodeWord_eq_ok_iff_eq_pattern nopRow_mem rfl w

theorem decodeWord_eq_resfield_of_nop_opcode {w : Word32} (hopc : fieldOpc w = 0) (hne : w ≠ 0) :
    decodeWord w = .error .resfield :=
  decodeWord_eq_resfield_of_not_matches nopRow_mem hopc fun hmatch => hne <|
    calc w = w &&& nopRow.mask := BitVec.and_allOnes.symm
      _ = 0 := hmatch

theorem decode_of_decodeWord_ok {w : Word32} {i : Instr} {npoly : Nat} (hdec : decodeWord w = .ok i)
    (hwf : i.wf npoly = true) : decode npoly w = .ok i := by
  rw [decode, hdec]
  exact if_pos hwf

end Sys2Proof
end

section
/-! SUPPORT. The engine's turn and the run of several steps (spec/49_system.md R900, R904), and what NOP leaves of a
state (R910). -/
namespace Sys2Proof.Machine

theorem exec_nop (s : State) : exec .nop s = .next { s with status := doneStatus s.status, eng := .idle } := rfl

/-- The engine's turn runs the latched command (R904). -/
theorem State.engineTurn_of_run {s : State} {w : Word32} {n : Nat} {i : Instr} (heng : s.eng = .run w n)
    (hdec : decodeWord w = .ok i) : s.engineTurn = exec i s := by
  simp only [State.engineTurn, heng, hdec]

theorem step_of_complete_pending {s : State} {rest : List Event} (hpending : s.pending = .complete :: rest) :
    step s = s.begin.engineTurn := by
  rw [step, State.nextEvent, hpending]
  rfl

theorem run_succ_of_step {M : Host.Core} {s t : M.State} (h : M.step s = .next t) (n : Nat) :
    M.run (n + 1) s = M.run n t := by
  rw [Host.Core.run, h]

theorem run_two_of_steps {s t u : State} (hfirst : step s = .next t) (hsecond : step t = .next u) :
    Host.Core.run core 2 s = .next u :=
  (run_succ_of_step (M := core) (s := s) (t := t) hfirst 1).trans
    (run_succ_of_step (M := core) (s := t) (t := u) hsecond 0)

/-- An idle block accepts NOP written to CMD (R902). -/
theorem writesTo_cmd_nop {s : State} (hbusy : s.status.busy = false) :
    WritesTo s 0x018 0 { s with status := ⟨true, false, false, s.status.cmdovf, 0⟩, eng := .run 0 0 } := by
  obtain ⟨-, -, haccept, -⟩ := cmdWriteIssuesOrOverruns s 0
  exact haccept .nop hbusy (decode_of_decodeWord_ok ((decodeWord_eq_nop_iff 0).2 rfl) rfl)

/-- The engine's turn with NOP latched reports completion (R904, R910). -/
theorem step_of_nop_latched {s : State} {n : Nat} {rest : List Event} (heng : s.eng = .run 0 n)
    (hpending : s.pending = .complete :: rest) :
    step s = .next { s.begin with status := doneStatus s.status, eng := .idle } :=
  calc step s = s.begin.engineTurn := step_of_complete_pending hpending
    _ = exec .nop s.begin := State.engineTurn_of_run (s := s.begin) heng ((decodeWord_eq_nop_iff 0).2 rfl)
    _ = .next { s.begin with status := doneStatus s.status, eng := .idle } := exec_nop s.begin

end Sys2Proof.Machine
end

section
/-! The statement about NOP (spec/49_system.md R910). -/
namespace Sys2Proof.Machine

/-- Settles O34: NOP's row is its one encoding, and its acceptance and its completion write STATUS and ENG only. -/
theorem nopOnlyReports : Obligations.NopOnlyReports := by
  refine ⟨exec_nop, decodeWord_eq_nop_iff, fun _ => decodeWord_eq_resfield_of_nop_opcode, fun s heng hbusy => ?_⟩
  have haccept := writesTo_cmd_nop hbusy [.complete]
  have hrun := run_two_of_steps haccept (step_of_nop_latched rfl rfl)
  rwa [← heng] at hrun

end Sys2Proof.Machine
end

section
/-! SUPPORT. The one answer of the decoder to each word (spec/60_exceptions.md R1002), the word a command assembles to
as a word that matches its row (spec/30_encoding.md R303, R305), and the end of a command with a field out of range. -/
namespace Sys2Proof

/-! ## The field check of R301 as a statement about the fields -/

theorem Instr.wf_iff {i : Instr} {npoly : Nat} : i.wf npoly = true ↔ ∀ f ∈ i.usedFields, f.toNat < npoly := by
  simp only [Instr.wf, List.all_eq_true, decide_eq_true_eq]

theorem Instr.wf_eq_false_iff {i : Instr} {npoly : Nat} :
    i.wf npoly = false ↔ ∃ f ∈ i.usedFields, npoly ≤ f.toNat := by
  simp only [Instr.wf, List.all_eq_false, decide_eq_true_eq, Nat.not_lt]

/-! ## The errors of R1002 -/

theorem opcodeTable_opcodes :
    opcodeTable.map (fun r => fieldOpc r.pattern) =
      [0x00, 0x01, 0x02, 0x10, 0x11, 0x20, 0x21, 0x22, 0x30, 0x31, 0x40, 0x41] := by decide

/-- A word whose OPC no row has is an ILLEGAL_OPCODE error. -/
theorem decodeWord_eq_illegalOpcode_of_unassigned {w : Word32}
    (h : fieldOpc w ∉ opcodeTable.map fun r => fieldOpc r.pattern) : decodeWord w = .error .illegalOpcode := by
  have hrow : rowOf (fieldOpc w) = none := by
    rw [Option.eq_none_iff_forall_ne_some]
    intro r hsome
    obtain ⟨hr, hopc⟩ := rowOf_eq_some_iff.1 hsome
    exact h (List.mem_map.2 ⟨r, hr, hopc⟩)
  rw [decodeWord, hrow]

theorem decode_of_decodeWord_error {w : Word32} {e : CmdError} (npoly : Nat) (hdec : decodeWord w = .error e) :
    decode npoly w = .error e := by
  rw [decode, hdec]

theorem decode_of_not_wf {w : Word32} {i : Instr} {npoly : Nat} (hdec : decodeWord w = .ok i)
    (hwf : i.wf npoly = false) : decode npoly w = .error .badIndex := by
  rw [decode, hdec]
  exact if_neg (Bool.eq_false_iff.1 hwf)

/-! ## The word of a command decodes to it -/

theorem rsvd_mask : ∀ r ∈ opcodeTable, r.mask.extractLsb' 0 12 = BitVec.allOnes 12 := by decide

theorem pattern_index_fields : ∀ r ∈ opcodeTable,
    fieldRd r.pattern = 0 ∧ fieldRs1 r.pattern = 0 ∧ fieldRs2 r.pattern = 0 ∧ r.pattern.extractLsb' 0 12 = 0 := by
  decide

/-- An assembled word matches the row of its opcode when the fields that the row's mask compares are 0. -/
theorem assemble_matches {r : OpcodeRow} (hr : r ∈ opcodeTable) {rd rs1 rs2 : BufIdx}
    (hrd : rd &&& fieldRd r.mask = 0) (hrs1 : rs1 &&& fieldRs1 r.mask = 0) (hrs2 : rs2 &&& fieldRs2 r.mask = 0) :
    assemble (fieldOpc r.pattern) rd rs1 rs2 &&& r.mask = r.pattern := by
  obtain ⟨hprd, hprs1, hprs2, hprsvd⟩ := pattern_index_fields r hr
  refine eq_iff_fields_eq.2 ⟨?_, ?_, ?_, ?_, ?_⟩
  · rw [fieldOpc_and, fieldOpc_assemble, fieldOpc_mask r hr, BitVec.and_allOnes]
  · rw [fieldRd_and, fieldRd_assemble, hrd, hprd]
  · rw [fieldRs1_and, fieldRs1_assemble, hrs1, hprs1]
  · rw [fieldRs2_and, fieldRs2_assemble, hrs2, hprs2]
  · rw [BitVec.extractLsb'_and, rsvd_assemble, rsvd_mask r hr, hprsvd, BitVec.and_allOnes]

/-- Such a word is the row's command on its index fields. -/
theorem decodeWord_assemble {r : OpcodeRow} (hr : r ∈ opcodeTable) {rd rs1 rs2 : BufIdx}
    (hrd : rd &&& fieldRd r.mask = 0) (hrs1 : rs1 &&& fieldRs1 r.mask = 0) (hrs2 : rs2 &&& fieldRs2 r.mask = 0) :
    decodeWord (assemble (fieldOpc r.pattern) rd rs1 rs2) = .ok (r.build rd rs1 rs2) :=
  decodeWord_eq_ok_iff.2 ⟨r, hr, assemble_matches hr hrd hrs1 hrs2, by
    rw [fieldRd_assemble, fieldRs1_assemble, fieldRs2_assemble]⟩

/-- The decoder reads a command back from its word: each command names its row, a used field is one its row's mask
leaves free, and the others are 0. -/
theorem decodeWord_encode (i : Instr) : decodeWord (encode i) = .ok i := by
  have row (k : Fin 12) : opcodeTable[k] ∈ opcodeTable := List.getElem_mem _
  cases i with
  | nop => exact decodeWord_assemble (row 0) BitVec.zero_and BitVec.zero_and BitVec.zero_and
  | smont => exact decodeWord_assemble (row 1) BitVec.zero_and BitVec.zero_and BitVec.zero_and
  | sbarr => exact decodeWord_assemble (row 2) BitVec.zero_and BitVec.zero_and BitVec.zero_and
  | ntt rd rs1 => exact decodeWord_assemble (row 3) BitVec.and_zero BitVec.and_zero BitVec.zero_and
  | intt rd rs1 => exact decodeWord_assemble (row 4) BitVec.and_zero BitVec.and_zero BitVec.zero_and
  | pmul rd rs1 rs2 => exact decodeWord_assemble (row 5) BitVec.and_zero BitVec.and_zero BitVec.and_zero
  | padd rd rs1 rs2 => exact decodeWord_assemble (row 6) BitVec.and_zero BitVec.and_zero BitVec.and_zero
  | canon rd rs1 => exact decodeWord_assemble (row 7) BitVec.and_zero BitVec.and_zero BitVec.zero_and
  | uniform rd => exact decodeWord_assemble (row 8) BitVec.and_zero BitVec.zero_and BitVec.zero_and
  | noise rd => exact decodeWord_assemble (row 9) BitVec.and_zero BitVec.zero_and BitVec.zero_and
  | helprec rd rs1 => exact decodeWord_assemble (row 10) BitVec.and_zero BitVec.and_zero BitVec.zero_and
  | reconcile rs1 rs2 => exact decodeWord_assemble (row 11) BitVec.zero_and BitVec.and_zero BitVec.and_zero

end Sys2Proof

namespace Sys2Proof.Machine

/-! ## A command with a field out of range (R301) -/

theorem State.withFields_of_not_wf {i : Instr} {s : State} (h : i.wf s.cfg.npoly = false) (k : State → State) :
    s.withFields i.usedFields k = s.raise .badIndex := if_neg (Bool.eq_false_iff.1 h)

/-- A command that is not well formed ends with BAD_INDEX: its field check comes first, and a command without buffer
fields is well formed. -/
theorem exec_of_not_wf {i : Instr} {s : State} (h : i.wf s.cfg.npoly = false) :
    exec i s = .next (s.raise .badIndex) := by
  cases i with
  | nop => exact nomatch h
  | smont => exact nomatch h
  | sbarr => exact nomatch h
  | ntt rd rs1 => exact congrArg Host.Outcome.next (State.withFields_of_not_wf h _)
  | intt rd rs1 => exact congrArg Host.Outcome.next (State.withFields_of_not_wf h _)
  | pmul rd rs1 rs2 => exact congrArg Host.Outcome.next (State.withFields_of_not_wf h _)
  | padd rd rs1 rs2 => exact congrArg Host.Outcome.next (State.withFields_of_not_wf h _)
  | canon rd rs1 => exact congrArg Host.Outcome.next (State.withFields_of_not_wf h _)
  | uniform rd => exact congrArg Host.Outcome.next (State.withFields_of_not_wf h _)
  | noise rd => exact congrArg Host.Outcome.next (State.withFields_of_not_wf h _)
  | helprec rd rs1 => exact congrArg Host.Outcome.next (State.withFields_of_not_wf h _)
  | reconcile rs1 rs2 => exact congrArg Host.Outcome.next (State.withFields_of_not_wf h _)

/-- A command that leaves a code other than BAD_INDEX's has passed its field check. -/
theorem wf_of_exec_errcode_ne {i : Instr} {s t : State} (h : exec i s = .next t)
    (hcode : t.status.errcode ≠ CmdError.badIndex.code) : i.wf s.cfg.npoly = true := by
  by_contra hwf
  rw [exec_of_not_wf (Bool.eq_false_iff.2 hwf)] at h
  obtain rfl := Host.Outcome.next.inj h
  exact hcode rfl

end Sys2Proof.Machine
end

section
/-! SUPPORT. An idle block with nothing to do (spec/60_exceptions.md R1025): the engine has the turn and does not use
it. -/
namespace Sys2Proof.Machine

variable {s : State}

theorem State.engineTurn_of_idle (heng : s.eng = .idle) : s.engineTurn = .next s := by
  rw [State.engineTurn, heng]

theorem step_of_none_pending (hpending : s.pending = []) : step s = s.begin.engineTurn := by
  rw [step, State.nextEvent, hpending]
  rfl

theorem State.begin_of_quiet (hpending : s.pending = []) (hbus : s.bus = .quiet) :
    s.begin = { s with tick := s.tick + 1 } := by
  simp [State.begin, hpending, hbus]

theorem step_of_idle (heng : s.eng = .idle) (hpending : s.pending = []) (hbus : s.bus = .quiet) :
    step s = .next { s with tick := s.tick + 1 } :=
  calc step s = s.begin.engineTurn := step_of_none_pending hpending
    _ = .next s.begin := State.engineTurn_of_idle (s := s.begin) heng
    _ = .next { s with tick := s.tick + 1 } := by rw [State.begin_of_quiet hpending hbus]

end Sys2Proof.Machine
end

section
/-! The statements about the decoder's errors and the idle block (spec/60_exceptions.md R1002, R1025). -/
namespace Sys2Proof.Machine

/-- Settles O4: each clause is the decoder's answer on the row of OPC, and a command that reports code 4 is well formed,
so that its word decodes. -/
theorem decodeReportsTheOneError : Obligations.DecodeReportsTheOneError := by
  refine ⟨⟨rfl, rfl, rfl⟩, fun npoly w => ⟨fun hopc => ?_, fun r hr hopc hne => ?_, fun r hr hmatch hbad => ?_,
    fun r hr hmatch hgood => ?_⟩, fun i s t hexec _ hcode => ?_⟩
  · rw [← opcodeTable_opcodes] at hopc
    exact decode_of_decodeWord_error npoly (decodeWord_eq_illegalOpcode_of_unassigned hopc)
  · exact decode_of_decodeWord_error npoly (decodeWord_eq_resfield_of_not_matches hr hopc hne)
  · exact decode_of_not_wf (decodeWord_eq_ok_iff.2 ⟨r, hr, hmatch, rfl⟩) (Instr.wf_eq_false_iff.2 hbad)
  · exact decode_of_decodeWord_ok (decodeWord_eq_ok_iff.2 ⟨r, hr, hmatch, rfl⟩) (Instr.wf_iff.2 hgood)
  · have hne : t.status.errcode ≠ CmdError.badIndex.code := by rw [hcode]; decide
    exact decode_of_decodeWord_ok (decodeWord_encode i) (wf_of_exec_errcode_ne hexec hne)

/-- Settles O12, by induction on the number of steps: each keeps the block idle with nothing pending. -/
theorem idleBlockHolds : Obligations.IdleBlockHolds := by
  intro s n heng hpending hbus
  induction n generalizing s with
  | zero => rfl
  | succ n ih =>
    calc Host.Core.run core (n + 1) s
        = Host.Core.run core n { s with tick := s.tick + 1 } :=
          run_succ_of_step (M := core) (step_of_idle heng hpending hbus) n
      _ = .next { s with tick := s.tick + 1 + n } := ih { s with tick := s.tick + 1 } heng hpending hbus
      _ = .next { s with tick := s.tick + (n + 1) } := by rw [Nat.add_assoc, Nat.add_comm 1 n]

end Sys2Proof.Machine
end

section
/-! SUPPORT. What a reset does to a command it aborts (spec/70_reset_and_hazards.md R1100, R1101): the answers drawn at
the RNG port, and the buffer the command would have written. -/
namespace Sys2Proof.Machine

variable {s : State}

/-! ## The command that runs -/

theorem State.running_of_idle (heng : s.eng = .idle) : s.running = none := by
  rw [State.running, heng]

theorem State.running_of_run {w : Word32} {n : Nat} {i : Instr} (heng : s.eng = .run w n)
    (hdec : decodeWord w = .ok i) : s.running = some i := by
  simp only [State.running, heng, hdec]

/-! ## The RNG port -/

/-- The port stands j answers further on after an abort: j is 0 with no command running, and at most a running
command's full count (U5). -/
theorem State.rngAfterAbort_eq_skip (s : State) :
    ∃ j, s.rngAfterAbort = s.rng.skip j ∧ (s.running = none → j = 0) ∧
      ∀ i, s.running = some i → j ≤ drawCount i := by
  cases hrun : s.running with
  | none => exact ⟨0, by rw [State.rngAfterAbort, hrun]; rfl, fun _ => rfl, fun _ h => (nomatch h)⟩
  | some i =>
    refine ⟨Config.abortedDraws s.tick % (drawCount i + 1), by rw [State.rngAfterAbort, hrun], (nomatch ·), ?_⟩
    rintro _ ⟨rfl⟩
    exact Nat.le_of_lt_succ (Nat.mod_lt _ (Nat.succ_pos _))

/-! ## The buffer file -/

theorem outside_iff (p : BufIdx) (a : Nat) :
    outside p a ↔ ¬ (bufBase p.toNat ≤ a ∧ a < bufBase p.toNat + 2048) := by
  rw [outside]
  omega

theorem State.memAfterAbort_of_not_running (hrun : s.running = none) : s.memAfterAbort = s.mem := by
  rw [State.memAfterAbort, hrun]

theorem State.memAfterAbort_of_no_destination {i : Instr} (hrun : s.running = some i) (hdest : destination i = none) :
    s.memAfterAbort = s.mem := by
  simp only [State.memAfterAbort, hrun, hdest]

theorem State.memAfterAbort_of_destination {i : Instr} {rd : BufIdx} (hrun : s.running = some i)
    (hdest : destination i = some rd) : s.memAfterAbort = (s.forgetPoly rd).mem := by
  simp only [State.memAfterAbort, hrun, hdest]

theorem State.read_forgetPoly_outside {p : BufIdx} {a : Nat} (h : outside p a) :
    (s.forgetPoly p).mem.read a = s.mem.read a := by
  rw [State.read_forgetPoly, if_neg ((outside_iff p a).1 h)]

theorem State.read_forgetPoly_inside {p : BufIdx} {a : Nat} (h : ¬ outside p a) :
    (s.forgetPoly p).mem.read a = none := by
  rw [State.read_forgetPoly, if_pos (not_not.1 (mt (outside_iff p a).2 h))]

/-! ## The two resets as steps -/

theorem step_hardReset (s : State) (rest : List Event) :
    step { s with pending := .hardReset :: rest } = .next (s.atAccess rest).hardReset := rfl

/-- A CTRL write with SRST is a soft reset, whatever its other bits are (R115). -/
theorem State.writeReg_ctrl_of_srst {v : Word32} (h : v.getLsbD 1 = true) : s.writeReg 0x010 v = s.softReset := by
  have hctrl : s.writeReg 0x010 v = if v.getLsbD 1 then s.softReset else { s with ie := v.getLsbD 0 } := rfl
  rw [hctrl, if_pos h]

end Sys2Proof.Machine
end

section
/-! The statements about the two resets (spec/70_reset_and_hazards.md R1100, R1101). -/
namespace Sys2Proof.Machine

/-- Settles O28: the step is `State.hardReset`, which reads the state only through the parameters and the port. -/
theorem hardResetState : Obligations.HardResetState := by
  intro s rest
  obtain ⟨j, hskip, hidle, hrun⟩ := (s.atAccess rest).rngAfterAbort_eq_skip
  refine ⟨_, j, _, step_hardReset s rest, rfl, rfl, fun _ => rfl, hskip, fun heng => ?_, fun w n i heng hdec => ?_⟩
  · exact hidle (State.running_of_idle heng)
  · exact hrun i (State.running_of_run heng hdec)

/-- Settles O29: the write is `State.softReset`, and of the buffer file it forgets the destination of the command that
was running and nothing else. What is still pending plays no part, so the step's state may be taken with nothing
pending. -/
theorem softResetState : Obligations.SoftResetState := by
  refine ⟨fun rd a b => rfl, fun a b => rfl, fun s v hsrst => ?_⟩
  obtain ⟨j, hskip, hidle, hrun⟩ := (s.atAccess []).rngAfterAbort_eq_skip
  refine ⟨s.memAfterAbort, (s.atAccess []).rngAfterAbort, j, ?_, hskip, fun heng => ?_, fun w n i heng hdec => ?_⟩
  · exact writesTo_of_writeReg rfl rfl fun rest => State.writeReg_ctrl_of_srst (s := s.atAccess rest) hsrst
  · have hnone := State.running_of_idle heng
    exact ⟨State.memAfterAbort_of_not_running hnone, hidle hnone⟩
  · have hsome := State.running_of_run heng hdec
    refine ⟨hrun i hsome, State.memAfterAbort_of_no_destination hsome, fun rd hdest => ?_⟩
    rw [State.memAfterAbort_of_destination hsome hdest]
    exact ⟨fun _ => State.read_forgetPoly_outside, fun _ => State.read_forgetPoly_inside⟩

end Sys2Proof.Machine
end

section
/-! SUPPORT. A word that matches a row is the word of the row's command (spec/30_encoding.md R300, R303, R305). -/
namespace Sys2Proof

/-- The fields of a word that matches a row, below its opcode: RSVD is 0, and so is what the row's mask compares
of each index field. -/
theorem fields_of_matches {r : OpcodeRow} (hr : r ∈ opcodeTable) {w : Word32} (h : w &&& r.mask = r.pattern) :
    fieldRd w &&& fieldRd r.mask = 0 ∧ fieldRs1 w &&& fieldRs1 r.mask = 0 ∧ fieldRs2 w &&& fieldRs2 r.mask = 0 ∧
      w.extractLsb' 0 12 = 0 := by
  obtain ⟨hprd, hprs1, hprs2, hprsvd⟩ := pattern_index_fields r hr
  refine ⟨?_, ?_, ?_, ?_⟩
  · rw [← fieldRd_and, h, hprd]
  · rw [← fieldRs1_and, h, hprs1]
  · rw [← fieldRs2_and, h, hprs2]
  · rw [← BitVec.and_allOnes (x := w.extractLsb' 0 12), ← rsvd_mask r hr, ← BitVec.extractLsb'_and, h, hprsvd]

theorem assemble_fields {w : Word32} (h : w.extractLsb' 0 12 = 0) :
    assemble (fieldOpc w) (fieldRd w) (fieldRs1 w) (fieldRs2 w) = w := by
  rw [assemble, ← h, append_fields]

/-- A row's command encodes to the row's opcode over its index fields, those that the row's mask compares being 0. -/
theorem encode_build {r : OpcodeRow} (hr : r ∈ opcodeTable) {rd rs1 rs2 : BufIdx} (hrd : rd &&& fieldRd r.mask = 0)
    (hrs1 : rs1 &&& fieldRs1 r.mask = 0) (hrs2 : rs2 &&& fieldRs2 r.mask = 0) :
    encode (r.build rd rs1 rs2) = assemble (fieldOpc r.pattern) rd rs1 rs2 := by
  have hzero : ∀ {f m : BufIdx}, m = BitVec.allOnes 4 → f &&& m = 0 → f = 0 := by
    rintro f _ rfl h
    rwa [BitVec.and_allOnes] at h
  simp only [opcodeTable, List.mem_cons, List.not_mem_nil, or_false] at hr
  rcases hr with rfl | rfl | rfl | rfl | rfl | rfl | rfl | rfl | rfl | rfl | rfl | rfl
  · rw [hzero rfl hrd, hzero rfl hrs1, hzero rfl hrs2]; rfl
  · rw [hzero rfl hrd, hzero rfl hrs1, hzero rfl hrs2]; rfl
  · rw [hzero rfl hrd, hzero rfl hrs1, hzero rfl hrs2]; rfl
  · obtain rfl := hzero rfl hrs2; rfl
  · obtain rfl := hzero rfl hrs2; rfl
  · rfl
  · rfl
  · obtain rfl := hzero rfl hrs2; rfl
  · rw [hzero rfl hrs1, hzero rfl hrs2]; rfl
  · rw [hzero rfl hrs1, hzero rfl hrs2]; rfl
  · obtain rfl := hzero rfl hrs2; rfl
  · obtain rfl := hzero rfl hrd; rfl

/-- A word that matches a row is the one encoding of the row's command on its fields. -/
theorem encode_build_fields {r : OpcodeRow} (hr : r ∈ opcodeTable) {w : Word32} (h : w &&& r.mask = r.pattern) :
    encode (r.build (fieldRd w) (fieldRs1 w) (fieldRs2 w)) = w := by
  obtain ⟨hrd, hrs1, hrs2, hrsvd⟩ := fields_of_matches hr h
  rw [encode_build hr hrd hrs1 hrs2, ← fieldOpc_eq_of_matches hr h, assemble_fields hrsvd]

end Sys2Proof
end

section
/-! The statements that encoder and decoder undo each other (spec/30_encoding.md R303, R305). -/
namespace Sys2Proof

/-- Settles O1: the word of a command decodes to it, and a well-formed command passes the field check. -/
theorem decodeOfEncode : Obligations.DecodeOfEncode := fun i =>
  ⟨decodeWord_encode i, fun _ hwf => decode_of_decodeWord_ok (decodeWord_encode i) hwf⟩

/-- Settles O2: a word that decodes matches a row, and is the row's opcode over its own fields. -/
theorem encodeOfDecode : Obligations.EncodeOfDecode := by
  intro w i h
  obtain ⟨r, hr, hmatch, rfl⟩ := decodeWord_eq_ok_iff.1 h
  exact encode_build_fields hr hmatch

end Sys2Proof
end

section
/-! SUPPORT. The network as its first nine levels and its last, which is odd and reduces every word (spec/41_ntt.md
R505, R506): the words it writes are 16-bit words for any twiddles, and at most 16379 in the input range of R506. -/
namespace Sys2Proof.Machine

section
variable {odd : Bool} {tw a : List Nat} {lvl n : Nat}

/-- The levels of NET from `lvl` on end with level `lvl + n`. -/
theorem netFrom_succ (tw : List Nat) (n lvl : Nat) (a : List Nat) :
    netFrom tw (n + 1) lvl a
      = netLevel ((lvl + n) % 2 == 1) (2 ^ (lvl + n)) (tw.take (1024 / (2 * 2 ^ (lvl + n)))) (netFrom tw n lvl a) := by
  induction n generalizing lvl a with
  | zero => rfl
  | succ n ih => rw [netFrom, ih, netFrom, Nat.add_assoc, Nat.add_comm 1 n]

theorem length_take_blocks (htw : tw.length = 512) (hlvl : lvl < 10) :
    1024 = 2 * 2 ^ lvl * (tw.take (1024 / (2 * 2 ^ lvl))).length := by
  obtain ⟨j, hj⟩ : ∃ j, lvl + j = 9 := ⟨9 - lvl, by omega⟩
  have hle : 2 ^ j ≤ 512 := Nat.pow_le_pow_right Nat.two_pos (show j ≤ 9 by omega)
  rw [blocks_of_level hj, List.length_take, htw, min_eq_left hle, two_mul_two_pow_mul hj]

theorem netFrom_length (htw : tw.length = 512) (ha : a.length = 1024) (hn : n ≤ 10) :
    (netFrom tw n 0 a).length = 1024 := by
  induction n with
  | zero => exact ha
  | succ n ih =>
    have hlen := ih (by omega)
    rw [netFrom_succ, Nat.zero_add, netLevel_length, hlen]
    rw [hlen]
    exact length_take_blocks htw (by omega)

/-- The range before each level (R506), for any twiddles below Q. -/
theorem netFrom_le (htw : tw.length = 512) (hbelow : ∀ w ∈ tw, w < Q) (ha : a.length = 1024) (hle : ∀ x ∈ a, x ≤ 16383)
    (hn : n ≤ 10) : ∀ x ∈ netFrom tw n 0 a, x ≤ levelBound n := by
  induction n with
  | zero => exact hle
  | succ n ih =>
    rw [netFrom_succ, Nat.zero_add]
    have hlen : (netFrom tw n 0 a).length = 1024 := netFrom_length htw ha (by omega)
    exact netLevel_le (hlen.trans (length_take_blocks htw (by omega)))
      (fun w hw => hbelow w (List.mem_of_mem_take hw)) (ih (by omega))

/-- What every word of a level satisfies, when both results of every butterfly do. -/
theorem forall_mem_netLevel {p : Nat → Prop} {d : Nat} (hd : 0 < d) (hlen : a.length = 2 * d * tw.length)
    (hsum : ∀ i j, p (butterflySum odd (wordAt a i) (wordAt a j)))
    (htwiddle : ∀ k < tw.length, ∀ i j, p (butterflyTwiddle (wordAt tw k) (wordAt a i) (wordAt a j))) :
    ∀ x ∈ netLevel odd d tw a, p x := by
  refine forall_mem_of_wordAt fun x hx => ?_
  rw [netLevel_length _ _ _ _ hlen, hlen] at hx
  obtain ⟨k, hk, v, hv, rfl | rfl⟩ := exists_butterfly_position hd hx
  · rw [wordAt_netLevel_low hv hlen hk]
    exact hsum _ _
  · rw [wordAt_netLevel_high hv hlen hk]
    exact htwiddle k hk _ _

theorem butterflySum_lt (odd : Bool) (x y : Nat) : butterflySum odd x y < 2 ^ 16 := by
  rw [butterflySum]
  split
  case isTrue => exact (br_le (trunc_lt 16 _)).trans_lt (by norm_num)
  case isFalse => exact trunc_lt 16 _

theorem butterflyTwiddle_lt (w x y : Nat) : butterflyTwiddle w x y < 2 ^ 16 := trunc_lt 16 _

/-- A level writes 16-bit words, whatever the twiddles. -/
theorem isBuffer_netLevel {d : Nat} (hd : 0 < d) (htw : 1024 = 2 * d * tw.length) (ha : a.length = 1024) :
    isBuffer (netLevel odd d tw a) :=
  ⟨(netLevel_length _ _ _ _ (ha.trans htw)).trans ha, forall_mem_netLevel hd (ha.trans htw)
    (fun _ _ => butterflySum_lt _ _ _) fun _ _ _ _ => butterflyTwiddle_lt _ _ _⟩

theorem isBuffer_net (htw : tw.length = 512) (ha : a.length = 1024) : isBuffer (net a tw) := by
  rw [net, netFrom_succ]
  exact isBuffer_netLevel (Nat.two_pow_pos _) (length_take_blocks htw (by norm_num))
    (netFrom_length htw ha (by norm_num))

/-- The range of NET (R506). -/
theorem net_le_16379 (htw : tw.length = 512) (hbelow : ∀ w ∈ tw, w < Q) (ha : a.length = 1024)
    (hle : ∀ x ∈ a, x ≤ 16383) : ∀ x ∈ net a tw, x ≤ 16379 := by
  have hword := wordAt_le_of_forall_mem (netFrom_le (n := 9) htw hbelow ha hle (by norm_num))
  have hlen : (netFrom tw 9 0 a).length = 1024 := netFrom_length htw ha (by norm_num)
  rw [net, netFrom_succ]
  refine forall_mem_netLevel (Nat.two_pow_pos _) (hlen.trans (length_take_blocks htw (by norm_num)))
    (fun i j => br_le (trunc_lt 16 _)) fun k hk i j => ?_
  have htwiddle : wordAt (tw.take (1024 / (2 * 2 ^ (0 + 9)))) k < Q :=
    hbelow _ (List.mem_of_mem_take (wordAt_mem hk))
  exact (butterflyTwiddle_le (hword i) (hword j) htwiddle).trans (by norm_num)

end

end Sys2Proof.Machine
end

section
/-! The statement about the range of NET (spec/41_ntt.md R506). -/
namespace Sys2Proof.Machine

/-- Settles O43: before the last level every word is at most 32766, and the last level, which is odd, reduces its
sums. -/
theorem networkRange : Obligations.NetworkRange := fun _ _ ha htw hbelow hle => net_le_16379 htw hbelow ha hle

end Sys2Proof.Machine
end

section
/-! SUPPORT. The words that NTT and INTT write for any table contents (spec/41_ntt.md R509 to R511), with their
ranges, and the states the two commands leave. -/
namespace Sys2Proof.Machine

section
variable {a t : List Nat} {rom : TableRom}

theorem permute_eq_map_range (h : a.length = 1024) :
    permute a = (List.range 1024).map fun i => wordAt a (bitrev 10 i) := by
  refine eq_of_wordAt (by rw [permute_length, h, List.length_map, List.length_range]) fun i hi => ?_
  rw [permute_length, h] at hi
  rw [wordAt_permute h hi, wordAt_map_range _ hi]

/-- A buffer times a table below Q (R504) stays in the input range of NET. -/
theorem mulc_le (ha : ∀ x ∈ a, x < 2 ^ 16) (ht : ∀ x ∈ t, x < Q) : ∀ x ∈ mulc a t, x ≤ 15360 := by
  refine forall_mem_of_wordAt fun i hi => ?_
  rw [mulc_length] at hi
  obtain ⟨hia, hit⟩ := lt_min_iff.1 hi
  rw [mulc, wordAt_zipWith _ hia hit]
  exact mr_mul_le (ha _ (wordAt_mem hia)) (ht _ (wordAt_mem hit))

theorem mulc_lt (a t : List Nat) : ∀ x ∈ mulc a t, x < 2 ^ 16 := by
  refine forall_mem_of_wordAt fun i hi => ?_
  rw [mulc_length] at hi
  obtain ⟨hia, hit⟩ := lt_min_iff.1 hi
  rw [mulc, wordAt_zipWith _ hia hit]
  exact trunc_lt 16 _

/-! ## NTT (R510) -/

/-- The words that NTT premultiplies. -/
def nttInput (permuteFirst : Bool) (a : List Nat) : List Nat := if permuteFirst then permute a else a

theorem nttWords_eq (first : Bool) (rom : TableRom) (a : List Nat) :
    nttWords first rom a = net (mulc (nttInput first a) (romPsiBr rom)) (romOmega rom) := rfl

theorem isBuffer_nttInput (first : Bool) (h : isBuffer a) : isBuffer (nttInput first a) := by
  cases first with
  | false => exact h
  | true => exact isBuffer_permute h

theorem mulc_nttInput_length (first : Bool) (rom : TableRom) (h : isBuffer a) :
    (mulc (nttInput first a) (romPsiBr rom)).length = 1024 := by
  rw [mulc_length, (isBuffer_nttInput first h).1, romPsiBr_length, min_self]

theorem isBuffer_nttWords_of_rom (first : Bool) (rom : TableRom) (h : isBuffer a) :
    isBuffer (nttWords first rom a) := by
  rw [nttWords_eq]
  exact isBuffer_net (romOmega_length rom) (mulc_nttInput_length first rom h)

theorem nttWords_le_16379 (first : Bool) (hrom : TablesBelowQ rom) (h : isBuffer a) :
    ∀ x ∈ nttWords first rom a, x ≤ 16379 := by
  rw [nttWords_eq]
  exact net_le_16379 (romOmega_length rom) hrom.omega (mulc_nttInput_length first rom h) fun x hx =>
    (mulc_le (isBuffer_nttInput first h).2 hrom.psiBr x hx).trans (by norm_num)

/-! ## INTT (R511) -/

theorem subQ_le (t : Nat) : subQ t ≤ t := by
  rw [subQ]
  split <;> omega

theorem isBuffer_inttWords (rom : TableRom) (h : isBuffer a) : isBuffer (inttWords rom a) := by
  refine ⟨inttWords_length rom a h.1, List.forall_mem_map.2 fun x hx => ?_⟩
  exact (subQ_le x).trans_lt (mulc_lt _ _ x hx)

/-- The products of INTT are below 2Q whatever NET has left, so that one subtraction reduces them. -/
theorem inttWords_lt_Q (hrom : TablesBelowQ rom) (h : isBuffer a) : ∀ x ∈ inttWords rom a, x < Q := by
  have hnet : isBuffer (net (permute a) (romOmegaInv rom)) :=
    isBuffer_net (romOmegaInv_length rom) (isBuffer_permute h).1
  refine List.forall_mem_map.2 fun x hx => ?_
  have hx : x ≤ 15360 := mulc_le hnet.2 hrom.psiInv x hx
  rw [subQ_eq_mod (by unfold Q; omega)]
  exact Nat.mod_lt _ (by norm_num)

end

/-! ## The commands -/

section
variable {rd rs1 : BufIdx} {s : State}

theorem exec_ntt_of_wf (h : (Instr.ntt rd rs1).wf s.cfg.npoly = true) :
    exec (.ntt rd rs1) s = .next (s.finishPoly rd (nttWords s.cfg.fwdPermute s.cfg.tables (s.poly rs1))) :=
  congrArg Host.Outcome.next (State.withFields_of_wf h _)

theorem exec_intt_of_wf (h : (Instr.intt rd rs1).wf s.cfg.npoly = true) :
    exec (.intt rd rs1) s = .next (s.finishPoly rd (inttWords s.cfg.tables (s.poly rs1))) :=
  congrArg Host.Outcome.next (State.withFields_of_wf h _)

end

end Sys2Proof.Machine
end

section
/-! The statements about NTT and INTT (spec/41_ntt.md R510, R511). -/
namespace Sys2Proof.Machine

/-- Settles O45: RD holds `nttWords` of the source, with PERMUTE written out position by position. -/
theorem nttResult : Obligations.NttResult := by
  refine ⟨fun rd rs1 s hwf => ?_, fun w => ?_⟩
  · have hsrc := s.isBuffer_poly rs1
    have hws := isBuffer_nttWords_of_rom s.cfg.fwdPermute s.cfg.tables hsrc
    refine ⟨_, exec_ntt_of_wf hwf, State.finishPoly_wroteBuffer hws.1, ?_⟩
    rw [State.poly_finishPoly hws, ← permute_eq_map_range hsrc.1]
    exact ⟨rfl, fun hrom => nttWords_le_16379 _ hrom hsrc⟩
  · have hencodings : (∃ rd rs1, ∃ _ : BufIdx, decodeWord w = .ok (.ntt rd rs1)) ↔
        fieldOpc w = 0x10 ∧ w.extractLsb' 0 16 = 0 :=
      exists_decodeWord_iff_of_mask (r := ⟨0x10000000, 0xFF00FFFF, fun d a _ => .ntt d a⟩)
        (by simp [opcodeTable]) (n := 16) (by norm_num) (by decide) w
    simpa only [exists_const] using hencodings

/-- Settles O46: RD holds `inttWords` of the source, with PERMUTE written out position by position. -/
theorem inttResult : Obligations.InttResult := by
  refine ⟨fun rd rs1 s hwf => ?_, fun w => ?_⟩
  · have hsrc := s.isBuffer_poly rs1
    have hws := isBuffer_inttWords s.cfg.tables hsrc
    refine ⟨_, exec_intt_of_wf hwf, State.finishPoly_wroteBuffer hws.1, ?_⟩
    rw [State.poly_finishPoly hws, ← permute_eq_map_range hsrc.1]
    exact ⟨rfl, fun hrom => inttWords_lt_Q hrom hsrc⟩
  · have hencodings : (∃ rd rs1, ∃ _ : BufIdx, decodeWord w = .ok (.intt rd rs1)) ↔
        fieldOpc w = 0x11 ∧ w.extractLsb' 0 16 = 0 :=
      exists_decodeWord_iff_of_mask (r := ⟨0x11000000, 0xFF00FFFF, fun d a _ => .intt d a⟩)
        (by simp [opcodeTable]) (n := 16) (by norm_num) (by decide) w
    simpa only [exists_const] using hencodings

end Sys2Proof.Machine
end

section
/-! SUPPORT. The states PADD leaves (spec/42_polyarith.md R602). -/
namespace Sys2Proof.Machine

theorem exec_padd_of_wf {rd rs1 rs2 : BufIdx} {s : State} (h : (Instr.padd rd rs1 rs2).wf s.cfg.npoly = true) :
    exec (.padd rd rs1 rs2) s = .next (s.finishPoly rd (List.zipWith paddLane (s.poly rs1) (s.poly rs2))) :=
  congrArg Host.Outcome.next (State.withFields_of_wf h _)

theorem zipWith_paddLane_le (x y : List Nat) : ∀ v ∈ List.zipWith paddLane x y, v ≤ 16379 := by
  refine forall_mem_of_wordAt fun i hi => ?_
  obtain ⟨hix, hiy⟩ := lt_min_iff.1 (by rwa [List.length_zipWith] at hi)
  rw [wordAt_zipWith _ hix hiy]
  exact paddLane_le _ _

theorem isBuffer_zipWith_paddLane {x y : List Nat} (hx : isBuffer x) (hy : isBuffer y) :
    isBuffer (List.zipWith paddLane x y) :=
  ⟨by rw [List.length_zipWith, hx.1, hy.1, min_self],
    fun v hv => (zipWith_paddLane_le x y v hv).trans_lt (by norm_num)⟩

end Sys2Proof.Machine
end

section
/-! The statement about PADD (spec/42_polyarith.md R602). -/
namespace Sys2Proof.Machine

/-- Settles O36: RD holds the lane sums, cut to 16 bits exactly where they wrap. -/
theorem paddResult : Obligations.PaddResult := by
  obtain ⟨-, hfits, hwraps, -⟩ := polyArithRanges
  refine ⟨fun rd rs1 rs2 s hwf => ?_,
    exists_decodeWord_iff_of_mask (r := ⟨0x21000000, 0xFF000FFF, fun d a b => .padd d a b⟩)
      (by simp [opcodeTable]) (n := 12) (by norm_num) (by decide),
    by decide, by decide, by decide, by decide⟩
  have hws := isBuffer_zipWith_paddLane (s.isBuffer_poly rs1) (s.isBuffer_poly rs2)
  refine ⟨_, exec_padd_of_wf hwf, State.finishPoly_wroteBuffer hws.1, fun k hk => ?_⟩
  have ha := s.wordAt_poly_lt rs1 hk
  have hb := s.wordAt_poly_lt rs2 hk
  rw [State.poly_finishPoly hws, wordAt_zipWith _ (by rwa [s.poly_length]) (by rwa [s.poly_length])]
  exact ⟨rfl, paddLane_le _ _, fun h => (hfits _ _ ha hb h).2, fun h => (hwraps _ _ ha hb h).2⟩

end Sys2Proof.Machine
end

section
/-! SUPPORT. The rejection sampler (spec/43_sampling.md R701): which words it accepts, and the states UNIFORM leaves. -/
namespace Sys2Proof.Machine

theorem acceptWord_mask14 (w : Nat) :
    acceptWord .mask14 w = if w % 16384 < Q then some (w % 16384) else none := by
  have hlow : w &&& 0x3FFF = w % 16384 := Nat.and_two_pow_sub_one_eq_mod w 14
  rw [acceptWord, hlow]

/-- Every coefficient that the sampler yields is below Q. -/
theorem acceptWord_lt_Q {mode : UniformMode} {w v : Nat} (h : acceptWord mode w = some v) : v < Q := by
  cases mode with
  | mask14 =>
    rw [acceptWord_mask14] at h
    split at h
    case isTrue hlt => exact Option.some.inj h ▸ hlt
    case isFalse => exact nomatch h
  | mult5q =>
    rw [acceptWord] at h
    split at h
    case isTrue => exact Option.some.inj h ▸ Nat.mod_lt _ (by norm_num)
    case isFalse => exact nomatch h

section
variable {rd : BufIdx} {s : State} {n : Nat}

theorem State.accepted_lt_Q (s : State) (n : Nat) : ∀ x ∈ s.accepted n, x < Q := by
  intro x hx
  obtain ⟨w, -, hw⟩ := List.mem_filterMap.1 hx
  exact acceptWord_lt_Q hw

theorem State.isBuffer_take_accepted (h : 1024 ≤ (s.accepted n).length) : isBuffer ((s.accepted n).take 1024) :=
  ⟨by rw [List.length_take, min_eq_left h],
    fun x hx => (s.accepted_lt_Q n x (List.mem_of_mem_take hx)).trans (by norm_num)⟩

/-- UNIFORM's coefficients are the first 1024 that the words examined yield. -/
theorem uniformWords_eq (s : State) (n : Nat) :
    uniformWords s.cfg.uniformMode s.cfg.xof s.seedBytes n =
      if 1024 ≤ (s.accepted n).length then some ((s.accepted n).take 1024) else none :=
  collect_eq _ _ _

theorem exec_uniform_of_enough (hwf : (Instr.uniform rd).wf s.cfg.npoly = true)
    (h : 1024 ≤ (s.accepted (s.examined + uniformTurn)).length) :
    exec (.uniform rd) s = .next (s.finishPoly rd ((s.accepted (s.examined + uniformTurn)).take 1024)) := by
  refine congrArg Host.Outcome.next ((State.withFields_of_wf hwf _).trans ?_)
  rw [uniformWords_eq, if_pos h]

theorem exec_uniform_of_too_few (hwf : (Instr.uniform rd).wf s.cfg.npoly = true)
    (h : (s.accepted (s.examined + uniformTurn)).length < 1024) :
    exec (.uniform rd) s = .next (s.keepRunning (.uniform rd) (s.examined + uniformTurn)) := by
  refine congrArg Host.Outcome.next ((State.withFields_of_wf hwf _).trans ?_)
  rw [uniformWords_eq, if_neg (Nat.not_le.2 h)]

end

end Sys2Proof.Machine
end

section
/-! The statements about the rejection sampler and UNIFORM (spec/43_sampling.md R701, R703). -/
namespace Sys2Proof.Machine

/-- Settles O50: the mask of R701 keeps the low 14 bits, and 5Q is 61445. -/
theorem acceptedWords : Obligations.AcceptedWords := fun w _ => ⟨acceptWord_mask14 w, rfl⟩

/-- Settles O51: the two ends of the engine's turn, by whether the words examined yield 1024 coefficients. -/
theorem uniformResult : Obligations.UniformResult := by
  refine fun rd s hwf => ⟨fun henough => ?_, fun hfew => exec_uniform_of_too_few hwf hfew⟩
  have hws := State.isBuffer_take_accepted henough
  refine ⟨_, exec_uniform_of_enough hwf henough, State.finishPoly_wroteBuffer hws.1, ?_⟩
  rw [uniformTurn, State.poly_finishPoly hws]
  exact ⟨rfl, fun x hx => s.accepted_lt_Q _ x (List.mem_of_mem_take hx)⟩

end Sys2Proof.Machine
end

section
/-! SUPPORT. The byte lanes of a 32-bit draw (spec/43_sampling.md R710): each lane of the masked sum counts the bits of
one byte. -/
namespace Sys2Proof.Machine

/-- Masking a number with 0x01 in its lowest byte keeps bit 0 of that byte, and masks the bytes above. -/
theorem and_byteMask (v m : Nat) : v &&& (1 + 256 * m) = v % 2 + 256 * (v / 256 &&& m) := by
  have hmod : (1 + 256 * m) % 256 = 1 := by omega
  have hdiv : (1 + 256 * m) / 256 = m := by omega
  have hlow : (v &&& (1 + 256 * m)) % 256 = v % 2 := by
    rw [show 256 = 2 ^ 8 from rfl, Nat.and_mod_two_pow]
    rw [show 2 ^ 8 = 256 from rfl, hmod, Nat.and_one_is_mod]
    omega
  have hhigh : (v &&& (1 + 256 * m)) / 256 = v / 256 &&& m := by
    rw [show 256 = 2 ^ 8 from rfl, Nat.and_div_two_pow]
    rw [show 2 ^ 8 = 256 from rfl, hdiv]
  omega

theorem and_laneMask (v : Nat) :
    v &&& 0x01010101 = v % 2 + 256 * (v / 256 % 2 + 256 * (v / 256 / 256 % 2 + 256 * (v / 256 / 256 / 256 % 2))) := by
  rw [show 0x01010101 = 1 + 256 * (1 + 256 * (1 + 256 * 1)) from rfl, and_byteMask, and_byteMask, and_byteMask,
    Nat.and_one_is_mod]

/-- The little-endian draw of four bytes (R710). -/
def drawWord (b0 b1 b2 b3 : Byte) : Nat := b0.toNat + 2 ^ 8 * b1.toNat + 2 ^ 16 * b2.toNat + 2 ^ 24 * b3.toNat

/-- Bit j of each byte, one in each lane. -/
theorem drawWord_shift_and (b0 b1 b2 b3 : Byte) {j : Nat} (hj : j < 8) :
    (drawWord b0 b1 b2 b3 >>> j) &&& 0x01010101
      = (b0.toNat >>> j) % 2 + 2 ^ 8 * ((b1.toNat >>> j) % 2) + 2 ^ 16 * ((b2.toNat >>> j) % 2)
        + 2 ^ 24 * ((b3.toNat >>> j) % 2) := by
  have h0 := b0.isLt
  have h1 := b1.isLt
  have h2 := b2.isLt
  simp only [and_laneMask, Nat.shiftRight_eq_div_pow, drawWord]
  interval_cases j <;> omega

/-- The masked sum of R710 holds the bit counts of the four bytes in its four lanes. -/
theorem sum_drawWord_shift_and (b0 b1 b2 b3 : Byte) :
    ((List.range 8).map fun j => (drawWord b0 b1 b2 b3 >>> j) &&& 0x01010101).sum
      = popcount b0 + 2 ^ 8 * popcount b1 + 2 ^ 16 * popcount b2 + 2 ^ 24 * popcount b3 := by
  rw [List.map_congr_left fun j hj => drawWord_shift_and b0 b1 b2 b3 (List.mem_range.1 hj)]
  simp only [popcount, List.sum_map_add, List.sum_map_mul_left]

end Sys2Proof.Machine
end

section
/-! The statement about the noise coefficient (spec/43_sampling.md R710). -/
namespace Sys2Proof.Machine

/-- Settles O53: a bit count is at most 8, so the lanes of the sum do not run into each other. -/
theorem noiseCoefficient : Obligations.NoiseCoefficient := by
  intro b0 b1 b2 b3
  have h0 := popcount_le b0
  have h1 := popcount_le b1
  have h2 := popcount_le b2
  have h3 := popcount_le b3
  have hsum := sum_drawWord_shift_and b0 b1 b2 b3
  have hrange := noisec_range b0 b1 b2 b3
  have hdef : noisec b0 b1 b2 b3
      = ((((popcount b0 + popcount b1 : Nat) : Int) - ((popcount b2 + popcount b3 : Nat) : Int)) % 12289).toNat := rfl
  rw [drawWord] at hsum
  intro t d a b
  have hd : d = popcount b0 + 2 ^ 8 * popcount b1 + 2 ^ 16 * popcount b2 + 2 ^ 24 * popcount b3 := hsum
  have ha : a = popcount b0 + popcount b1 := show d % 2 ^ 8 + d / 2 ^ 8 % 2 ^ 8 = _ by omega
  have hb : b = popcount b2 + popcount b3 := show d / 2 ^ 16 % 2 ^ 8 + d / 2 ^ 24 % 2 ^ 8 = _ by omega
  rw [ha, hb]
  refine ⟨?_, by omega, by omega, hrange⟩
  rw [hdef]
  exact Int.toNat_of_nonneg (Int.emod_nonneg _ (by norm_num))

end Sys2Proof.Machine
end

section
/-! SUPPORT. The helper of HELPREC group by group (spec/44_reconciliation.md R800, R810), and the states HELPREC
leaves. -/
namespace Sys2Proof.Machine

section
variable {a b : List Nat} {i n : Nat}

theorem wordAt_append_left (h : i < a.length) : wordAt (a ++ b) i = wordAt a i := List.getD_append _ _ _ _ h

theorem wordAt_append_right (h : a.length = n) : wordAt (a ++ b) (n + i) = wordAt b i := by
  rw [wordAt, List.getD_append_right _ _ _ _ (by omega), h, Nat.add_sub_cancel_left, wordAt]

end

/-! ## The random bits -/

/-- The bits of a byte, bit 0 first. -/
def byteBits (b : Byte) : List Nat := (List.range 8).map fun j => (b.toNat >>> j) % 2

theorem byteBits_length (b : Byte) : (byteBits b).length = 8 := rfl

theorem wordAt_byteBits (b : Byte) {j : Nat} (hj : j < 8) : wordAt (byteBits b) j = b.toNat / 2 ^ j % 2 := by
  rw [byteBits, wordAt_map_range _ hj, Nat.shiftRight_eq_div_pow]

theorem randomBits_cons (b : Byte) (bs : List Byte) : randomBits (b :: bs) = byteBits b ++ randomBits bs := rfl

/-- Random bit i is bit i mod 8 of byte i div 8 (R810). -/
theorem wordAt_randomBits : ∀ (bs : List Byte) {i : Nat}, i < 8 * bs.length →
    wordAt (randomBits bs) i = (byteAt bs (i / 8)).toNat / 2 ^ (i % 8) % 2
  | [], i, h => absurd h (Nat.not_lt_zero i)
  | b :: bs, i, h => by
    rw [randomBits_cons]
    rcases Nat.lt_or_ge i 8 with hi | hi
    · rw [wordAt_append_left hi, wordAt_byteBits b hi, Nat.div_eq_of_lt hi, Nat.mod_eq_of_lt hi]
      rfl
    · obtain ⟨k, rfl⟩ := Nat.exists_eq_add_of_le hi
      have hk : k < 8 * bs.length := by
        simp only [List.length_cons] at h
        omega
      rw [wordAt_append_right (byteBits_length b), wordAt_randomBits bs hk, Nat.add_div_left _ (by norm_num),
        Nat.add_mod_left]
      rfl

/-! ## Groups -/

/-- A buffer made of 256 groups has lane j of group i at 256 j + i (R800). -/
theorem groupAt_ungroup {gs : List Lanes} (hlen : gs.length = 256) {g : Lanes} {i : Nat} (hg : gs[i]? = some g) :
    groupAt (ungroup gs) i = g := by
  have hlane : ∀ f : Lanes → Nat, (gs.map f).length = 256 := fun f => by rw [List.length_map, hlen]
  have hword : ∀ f : Lanes → Nat, wordAt (gs.map f) i = f g := fun f =>
    wordAt_of_getElem? (by rw [List.getElem?_map, hg, Option.map_some])
  have hi : i < 256 := hlen ▸ (List.getElem?_eq_some_iff.1 hg).1
  have h0 : wordAt (ungroup gs) i = g.l0 := by
    rw [ungroup, wordAt_append_left, wordAt_append_left, wordAt_append_left, hword] <;>
      simp only [List.length_append, hlane] <;> omega
  have h1 : wordAt (ungroup gs) (256 + i) = g.l1 := by
    rw [ungroup, wordAt_append_left, wordAt_append_left, wordAt_append_right (hlane _), hword] <;>
      simp only [List.length_append, hlane] <;> omega
  have h2 : wordAt (ungroup gs) (512 + i) = g.l2 := by
    rw [ungroup, wordAt_append_left, wordAt_append_right, hword]
    · simp only [List.length_append, hlane]
    · simp only [List.length_append, hlane]
      omega
  have h3 : wordAt (ungroup gs) (768 + i) = g.l3 := by
    rw [ungroup, wordAt_append_right, hword]
    simp only [List.length_append, hlane]
  rw [groupAt, h0, h1, h2, h3]

theorem groupAt_helprecWords {v : List Nat} {bs : List Byte} (hv : v.length = 1024) (hbs : bs.length = 32) {i : Nat}
    (hi : i < 256) :
    groupAt (helprecWords v bs) i = helpGroup (groupAt v i) ((byteAt bs (i / 8)).toNat / 2 ^ (i % 8) % 2) := by
  have hbits : i < (randomBits bs).length := by rw [randomBits_length, hbs]; exact hi
  have hlen : (List.zipWith helpGroup (groups v) (randomBits bs)).length = 256 := by
    rw [List.length_zipWith, groups_length v hv, randomBits_length, hbs]
    rfl
  refine groupAt_ungroup hlen ?_
  rw [List.getElem?_zipWith, groups_getElem? v hv hi, List.getElem?_eq_getElem hbits, ← wordAt_eq_getElem hbits,
    wordAt_randomBits bs (by rw [hbs]; exact hi)]
  rfl

/-! ## The helper words of a group -/

theorem diffMod4_cast (x y : Nat) : (diffMod4 x y : Int) = ((x : Int) - (y : Int)) % 4 :=
  Int.toNat_of_nonneg (Int.emod_nonneg _ (by norm_num))

theorem diffMod4_le (x y : Nat) : diffMod4 x y ≤ 3 := by
  have h := diffMod4_cast x y
  omega

theorem helpGroup_le (v : Lanes) (rbit : Nat) :
    (helpGroup v rbit).l0 ≤ 3 ∧ (helpGroup v rbit).l1 ≤ 3 ∧ (helpGroup v rbit).l2 ≤ 3 ∧ (helpGroup v rbit).l3 ≤ 3 :=
  ⟨diffMod4_le _ _, diffMod4_le _ _, diffMod4_le _ _, Nat.le_of_lt_succ (Nat.mod_lt _ (by norm_num))⟩

theorem helprecWords_le (v : List Nat) (bs : List Byte) : ∀ x ∈ helprecWords v bs, x ≤ 3 := by
  have hgroup : ∀ g ∈ List.zipWith helpGroup (groups v) (randomBits bs), ∃ u rbit, g = helpGroup u rbit := by
    intro g hg
    obtain ⟨i, hi, rfl⟩ := List.getElem_of_mem hg
    exact ⟨_, _, List.getElem_zipWith ..⟩
  intro x hx
  simp only [helprecWords, ungroup, List.mem_append, List.mem_map] at hx
  obtain ((⟨g, hg, rfl⟩ | ⟨g, hg, rfl⟩) | ⟨g, hg, rfl⟩) | ⟨g, hg, rfl⟩ := hx <;>
    obtain ⟨u, rbit, rfl⟩ := hgroup g hg <;> obtain ⟨h0, h1, h2, h3⟩ := helpGroup_le u rbit <;> assumption

theorem isBuffer_helprecWords {v : List Nat} {bs : List Byte} (hv : v.length = 1024) (hbs : bs.length = 32) :
    isBuffer (helprecWords v bs) :=
  ⟨helprecWords_length v bs hv hbs, fun x hx => (helprecWords_le v bs x hx).trans_lt (by norm_num)⟩

/-! ## HELPREC -/

section
variable {rd rs1 : BufIdx} {s : State} {r : Rng}

theorem exec_helprec_of_draw {bs : List Byte} (hwf : (Instr.helprec rd rs1).wf s.cfg.npoly = true)
    (hdraw : s.rng.draw 32 = (some bs, r)) :
    exec (.helprec rd rs1) s = .next ({ s with rng := r }.finishPoly rd (helprecWords (s.poly rs1) bs)) := by
  refine congrArg Host.Outcome.next ((State.withFields_of_wf hwf _).trans ?_)
  rw [hdraw]

theorem exec_helprec_of_fail (hwf : (Instr.helprec rd rs1).wf s.cfg.npoly = true)
    (hdraw : s.rng.draw 32 = (none, r)) :
    exec (.helprec rd rs1) s = .next ({ s with rng := r }.raise .entropyFail) := by
  refine congrArg Host.Outcome.next ((State.withFields_of_wf hwf _).trans ?_)
  rw [hdraw]

end

end Sys2Proof.Machine
end

section
/-! The statements about HELPREC and about the helper of REC (spec/44_reconciliation.md R810, R811;
spec/70_reset_and_hazards.md R1114). -/
namespace Sys2Proof.Machine

/-- Settles O57: the draws follow the port's answers; group i of RD is the helper of group i of the source. -/
theorem helprecResult : Obligations.HelprecResult := by
  refine ⟨fun rd rs1 s hwf => ⟨fun bs hlen hbytes => ?_, fun j hj hfail hbefore => ?_⟩, fun w => ?_, by decide⟩
  · have hdraw : s.rng.draw 32 = (some bs, s.rng.skip 32) := hlen ▸ Rng.draw_of_bytes (hlen.symm ▸ hbytes)
    have hws := isBuffer_helprecWords (s.poly_length rs1) hlen
    refine ⟨_, exec_helprec_of_draw hwf hdraw, State.finishPoly_wroteBuffer_of_drawn _ hws.1, ?_⟩
    rw [State.poly_finishPoly hws]
    refine ⟨fun i hi => ?_, helprecWords_le _ _⟩
    have hgroup := groupAt_helprecWords (s.poly_length rs1) hlen hi
    intro v rbit x0 x1 x2 x3 sel vt
    have hsel : sel = helpSel v rbit := rfl
    have hvt : ∀ l, vt (8 * l + 4 * rbit) = helpVt sel l rbit := fun _ => rfl
    obtain ⟨h0, h1, h2, h3⟩ := Lanes.mk.inj hgroup
    rw [h0, h1, h2, h3, hvt, hvt, hvt, hvt, hsel]
    exact ⟨diffMod4_cast _ _, diffMod4_cast _ _, diffMod4_cast _ _, rfl⟩
  · exact exec_helprec_of_fail hwf (Rng.draw_of_first_fail hj hfail hbefore)
  · have hencodings : (∃ rd rs1, ∃ _ : BufIdx, decodeWord w = .ok (.helprec rd rs1)) ↔
        fieldOpc w = 0x40 ∧ w.extractLsb' 0 16 = 0 :=
      exists_decodeWord_iff_of_mask (r := ⟨0x40000000, 0xFF00FFFF, fun d a _ => .helprec d a⟩)
        (by simp [opcodeTable]) (n := 16) (by norm_num) (by decide) w
    simpa only [exists_const] using hencodings

theorem recBit_map_mod_four (invert : Bool) (v c : Lanes) : recBit invert v (c.map (· % 4)) = recBit invert v c := by
  simp only [recBit_eq, Lanes.map_l0, Lanes.map_l1, Lanes.map_l2, Lanes.map_l3, Nat.mod_mod]

theorem recBit_true : recBit true = fun v c => !recBit false v c := by
  funext v c
  simp only [recBit_eq, ldd, Bool.xor_true, Bool.xor_false]

/-- Settles O60: both sides group by group, where the helper words are already taken modulo 4 and REC_INVERT comes in
last. -/
theorem recHelperBitsAndPolarity : Obligations.RecHelperBitsAndPolarity := by
  refine fun v c _ hc => ⟨fun invert => ?_, ?_⟩
  · simp only [recBits, groups_map _ hc, List.zipWith_map_right, recBit_map_mod_four]
  · rw [recBits, recBits, List.map_zipWith, recBit_true]

end Sys2Proof.Machine
end

section
/-! SUPPORT. How a command can end, said once for every command (spec/49_system.md R904; spec/60_exceptions.md R1000).
-/
namespace Sys2Proof.Machine

/-! ## The words a command writes -/

/-- What every command's result is: a buffer's worth of words and, with tables below Q, in the input range of every
command (R1111). -/
structure ResultWords (rom : TableRom) (ws : List Nat) : Prop where
  isBuffer : isBuffer ws
  le       : TablesBelowQ rom → ∀ x ∈ ws, x ≤ 16379

section
variable {rom : TableRom} {a b : List Nat}

theorem resultWords_of_le {ws : List Nat} (hlen : ws.length = 1024) (hle : ∀ x ∈ ws, x ≤ 16379) :
    ResultWords rom ws :=
  ⟨⟨hlen, fun x hx => (hle x hx).trans_lt (by norm_num)⟩, fun _ => hle⟩

theorem resultWords_of_lt_Q {ws : List Nat} (hlen : ws.length = 1024) (hlt : ∀ x ∈ ws, x < Q) : ResultWords rom ws :=
  resultWords_of_le hlen fun x hx => (hlt x hx).le.trans (by norm_num)

theorem resultWords_ntt (first : Bool) (ha : isBuffer a) : ResultWords rom (nttWords first rom a) :=
  ⟨isBuffer_nttWords_of_rom first rom ha, fun hrom => nttWords_le_16379 first hrom ha⟩

theorem resultWords_intt (ha : isBuffer a) : ResultWords rom (inttWords rom a) :=
  ⟨isBuffer_inttWords rom ha, fun hrom x hx => (inttWords_lt_Q hrom ha x hx).le.trans (by norm_num)⟩

theorem resultWords_pmul (ha : isBuffer a) (hb : isBuffer b) : ResultWords rom (List.zipWith pmulLane a b) := by
  refine resultWords_of_le (isBuffer_zipWith_pmulLane ha hb).1 (forall_mem_of_wordAt fun i hi => ?_)
  obtain ⟨hia, hib⟩ := lt_min_iff.1 (by rwa [List.length_zipWith] at hi)
  rw [wordAt_zipWith _ hia hib]
  exact (pmulLane_le_15554 (ha.2 _ (wordAt_mem hia)) (hb.2 _ (wordAt_mem hib))).trans (by norm_num)

theorem resultWords_padd (ha : isBuffer a) (hb : isBuffer b) : ResultWords rom (List.zipWith paddLane a b) :=
  resultWords_of_le (isBuffer_zipWith_paddLane ha hb).1 (zipWith_paddLane_le a b)

theorem resultWords_canon (ha : isBuffer a) : ResultWords rom (a.map canon16) :=
  resultWords_of_lt_Q (isBuffer_map_canon16 ha).1 (List.forall_mem_map.2 fun x hx => canon16_lt_Q (ha.2 x hx))

theorem resultWords_uniform {s : State} {n : Nat} (h : 1024 ≤ (s.accepted n).length) :
    ResultWords rom ((s.accepted n).take 1024) :=
  resultWords_of_lt_Q (State.isBuffer_take_accepted h).1 fun x hx => s.accepted_lt_Q n x (List.mem_of_mem_take hx)

theorem resultWords_noise {bs : List Byte} (h : bs.length = 4096) : ResultWords rom (noiseWords bs) := by
  have hlen := isBuffer_noiseWords h
  refine resultWords_of_lt_Q hlen.1 (forall_mem_of_wordAt fun i hi => ?_)
  rw [wordAt_noiseWords bs i (by rwa [noiseWords_length] at hi)]
  rcases noisec_range (byteAt bs (4 * i)) (byteAt bs (4 * i + 1)) (byteAt bs (4 * i + 2)) (byteAt bs (4 * i + 3))
    with hlow | ⟨-, hhigh⟩
  · exact hlow.trans_lt (by norm_num)
  · exact Nat.lt_succ_of_le hhigh

theorem resultWords_helprec {bs : List Byte} (ha : isBuffer a) (h : bs.length = 32) :
    ResultWords rom (helprecWords a bs) :=
  resultWords_of_le (helprecWords_length a bs ha.1 h) fun x hx => (helprecWords_le a bs x hx).trans (by norm_num)

end

/-! ## The ends of a command -/

/-- The states that command i can leave when the engine runs it in s. -/
inductive CommandEnd (i : Instr) (s : State) : State → Prop
  /-- BAD_INDEX (R301). -/
  | badIndex (hwf : i.wf s.cfg.npoly = false) : CommandEnd i s (s.raise .badIndex)
  /-- ENTROPY_FAIL (R702), the port having moved on. -/
  | entropyFail (r : Rng) (hdraws : drawCount i ≠ 0) : CommandEnd i s ({ s with rng := r }.raise .entropyFail)
  /-- Nothing but the report. -/
  | plain : CommandEnd i s s.finish
  /-- A result in SRES. -/
  | scalar (v : Nat) (hi : i = .smont ∨ i = .sbarr) : CommandEnd i s (s.finishScalar v)
  /-- A result in the destination buffer, the port having moved on if the command draws. -/
  | poly (rd : BufIdx) (ws : List Nat) (r : Rng) (hwf : i.wf s.cfg.npoly = true) (hdest : destination i = some rd)
      (hws : ResultWords s.cfg.tables ws) (hrng : r = s.rng ∨ drawCount i ≠ 0) :
      CommandEnd i s ({ s with rng := r }.finishPoly rd ws)
  /-- A result in KEY. -/
  | key (k : Vector Word32 8) (rs1 rs2 : BufIdx) (hi : i = .reconcile rs1 rs2) : CommandEnd i s (s.finishKey k)
  /-- UNIFORM goes on running (R703). -/
  | goesOn (rd : BufIdx) (n : Nat) (hwf : i.wf s.cfg.npoly = true) (hi : i = .uniform rd) :
      CommandEnd i s (s.keepRunning i n)

section
variable {i : Instr} {s t : State}

/-- A result that needs no draws. -/
theorem CommandEnd.poly_of_no_draw {rd : BufIdx} {ws : List Nat} (hwf : i.wf s.cfg.npoly = true)
    (hdest : destination i = some rd) (hws : ResultWords s.cfg.tables ws) : CommandEnd i s (s.finishPoly rd ws) :=
  .poly rd ws s.rng hwf hdest hws (.inl rfl)

/-- Every command answers a next state, which is one of its ends. -/
theorem exec_commandEnd (i : Instr) (s : State) : ∃ t, exec i s = .next t ∧ CommandEnd i s t := by
  cases hwf : i.wf s.cfg.npoly with
  | false => exact ⟨_, exec_of_not_wf hwf, .badIndex hwf⟩
  | true =>
    cases i with
    | nop => exact ⟨_, rfl, .plain⟩
    | smont => exact ⟨_, rfl, .scalar _ (.inl rfl)⟩
    | sbarr => exact ⟨_, rfl, .scalar _ (.inr rfl)⟩
    | ntt rd rs1 =>
      exact ⟨_, exec_ntt_of_wf hwf, .poly_of_no_draw hwf rfl (resultWords_ntt _ (s.isBuffer_poly rs1))⟩
    | intt rd rs1 =>
      exact ⟨_, exec_intt_of_wf hwf, .poly_of_no_draw hwf rfl (resultWords_intt (s.isBuffer_poly rs1))⟩
    | pmul rd rs1 rs2 =>
      exact ⟨_, exec_pmul_of_wf hwf,
        .poly_of_no_draw hwf rfl (resultWords_pmul (s.isBuffer_poly rs1) (s.isBuffer_poly rs2))⟩
    | padd rd rs1 rs2 =>
      exact ⟨_, exec_padd_of_wf hwf,
        .poly_of_no_draw hwf rfl (resultWords_padd (s.isBuffer_poly rs1) (s.isBuffer_poly rs2))⟩
    | canon rd rs1 =>
      exact ⟨_, exec_canon_of_wf hwf, .poly_of_no_draw hwf rfl (resultWords_canon (s.isBuffer_poly rs1))⟩
    | uniform rd =>
      rcases Nat.lt_or_ge (s.accepted (s.examined + uniformTurn)).length 1024 with hfew | henough
      · exact ⟨_, exec_uniform_of_too_few hwf hfew, .goesOn rd _ hwf rfl⟩
      · exact ⟨_, exec_uniform_of_enough hwf henough, .poly_of_no_draw hwf rfl (resultWords_uniform henough)⟩
    | noise rd =>
      have hdraws : drawCount (.noise rd) ≠ 0 := by simp [drawCount]
      rcases Rng.draw_cases 4096 s.rng with ⟨bs, hlen, hdraw⟩ | ⟨j, -, hdraw⟩
      · exact ⟨_, exec_noise_of_draw hwf hdraw, .poly rd _ _ hwf rfl (resultWords_noise hlen) (.inr hdraws)⟩
      · exact ⟨_, exec_noise_of_fail hwf hdraw, .entropyFail _ hdraws⟩
    | helprec rd rs1 =>
      have hdraws : drawCount (.helprec rd rs1) ≠ 0 := by simp [drawCount]
      rcases Rng.draw_cases 32 s.rng with ⟨bs, hlen, hdraw⟩ | ⟨j, -, hdraw⟩
      · exact ⟨_, exec_helprec_of_draw hwf hdraw,
          .poly rd _ _ hwf rfl (resultWords_helprec (s.isBuffer_poly rs1) hlen) (.inr hdraws)⟩
      · exact ⟨_, exec_helprec_of_fail hwf hdraw, .entropyFail _ hdraws⟩
    | reconcile rs1 rs2 => exact ⟨_, exec_reconcile_of_wf hwf, .key _ rs1 rs2 rfl⟩

theorem commandEnd_of_exec (h : exec i s = .next t) : CommandEnd i s t := by
  obtain ⟨t', ht', hend⟩ := exec_commandEnd i s
  obtain rfl : t' = t := Host.Outcome.next.inj (ht'.symm.trans h)
  exact hend

/-! ## The fields no command changes -/

theorem CommandFrame.sopa_eq (h : CommandFrame s t) : t.sopa = s.sopa := by rw [h]
theorem CommandFrame.ie_eq (h : CommandFrame s t) : t.ie = s.ie := by rw [h]
theorem CommandFrame.cfg_eq (h : CommandFrame s t) : t.cfg = s.cfg := by rw [h]
theorem CommandFrame.pending_eq (h : CommandFrame s t) : t.pending = s.pending := by rw [h]
theorem CommandFrame.bus_eq (h : CommandFrame s t) : t.bus = s.bus := by rw [h]
theorem CommandFrame.tick_eq (h : CommandFrame s t) : t.tick = s.tick := by rw [h]

/-! ## What the ends have in common -/

/-- A command other than UNIFORM ends the engine's run and reports (R904); CMDOVF is the host's. -/
theorem CommandEnd.reports (h : CommandEnd i s t) :
    t.status.cmdovf = s.status.cmdovf ∧
      (t.eng = .idle ∧ t.status.busy = false ∧ t.status.done = true ∨ (t.eng ≠ .idle ∧ ∃ rd, i = .uniform rd)) := by
  cases h with
  | badIndex => exact ⟨rfl, .inl ⟨rfl, rfl, rfl⟩⟩
  | entropyFail => exact ⟨rfl, .inl ⟨rfl, rfl, rfl⟩⟩
  | plain => exact ⟨rfl, .inl ⟨rfl, rfl, rfl⟩⟩
  | scalar => exact ⟨rfl, .inl ⟨rfl, rfl, rfl⟩⟩
  | poly => exact ⟨rfl, .inl ⟨rfl, rfl, rfl⟩⟩
  | key => exact ⟨rfl, .inl ⟨rfl, rfl, rfl⟩⟩
  | goesOn rd n hwf hi => exact ⟨rfl, .inr ⟨nofun, rd, hi⟩⟩

/-- A command writes at most its destination buffer. -/
theorem CommandEnd.mem_cases (h : CommandEnd i s t) :
    t.mem = s.mem ∨ ∃ rd ws, i.wf s.cfg.npoly = true ∧ destination i = some rd ∧ ResultWords s.cfg.tables ws ∧
      t.mem = (s.writePoly rd ws).mem := by
  cases h with
  | poly rd ws r hwf hdest hws => exact .inr ⟨rd, ws, hwf, hdest, hws, rfl⟩
  | _ => exact .inl rfl

theorem CommandEnd.key_eq_or (h : CommandEnd i s t) : t.key = s.key ∨ ∃ rs1 rs2, i = .reconcile rs1 rs2 := by
  cases h with
  | key k rs1 rs2 hi => exact .inr ⟨rs1, rs2, hi⟩
  | _ => exact .inl rfl

theorem CommandEnd.sres_eq_or (h : CommandEnd i s t) : t.sres = s.sres ∨ i = .smont ∨ i = .sbarr := by
  cases h with
  | scalar v hi => exact .inr hi
  | _ => exact .inl rfl

theorem CommandEnd.rng_eq_or (h : CommandEnd i s t) : t.rng = s.rng ∨ drawCount i ≠ 0 := by
  cases h with
  | entropyFail r hdraws => exact .inr hdraws
  | poly rd ws r hwf hdest hws hrng => exact hrng
  | _ => exact .inl rfl

/-- A buffer's words depend on the buffer file and, for the free values, on the step number. -/
theorem State.poly_congr {u : State} (hmem : t.mem = u.mem) (htick : t.tick = u.tick) (p : BufIdx) :
    t.poly p = u.poly p := by
  have hfill : t.fill = u.fill := by
    funext a
    rw [State.fill, State.fill, htick]
  rw [State.poly, State.poly, hmem, hfill]

/-- The commands that draw (R702). -/
theorem drawCount_ne_zero_iff : drawCount i ≠ 0 ↔ (∃ rd, i = .noise rd) ∨ ∃ rd rs1, i = .helprec rd rs1 := by
  cases i <;> simp [drawCount]

end

end Sys2Proof.Machine
end

section
/-! The statements about what a command changes and how it ends (spec/10_state.md sections 4 to 6; spec/60_exceptions.md
R1000, R1001, R1006; spec/70_reset_and_hazards.md R1111). -/
namespace Sys2Proof.Machine

/-- Settles O14: the frame of every command, and for each field beside it the ends that change it. -/
theorem commandFootprint : Obligations.CommandFootprint := by
  intro i s t h
  have hend := commandEnd_of_exec h
  have hframe := commandFrame_of_exec h
  refine ⟨hframe.seed_eq, hframe.sopa_eq, hframe.ie_eq, hframe.cfg_eq, hend.reports.1, hframe.pending_eq,
    hframe.bus_eq, hframe.tick_eq, hend.key_eq_or.resolve_left, hend.sres_eq_or.resolve_left, fun hrng => ?_,
    fun a ha => ?_⟩
  · exact drawCount_ne_zero_iff.1 (hend.rng_eq_or.resolve_left hrng)
  · rcases hend.mem_cases with hmem | ⟨rd, ws, -, hdest, hws, hmem⟩
    · exact absurd (by rw [hmem]) ha
    · refine ⟨rd, hdest, fun hout => ha ?_⟩
      rw [hmem, s.read_writePoly_outside rd hws.isBuffer.1 hout]

/-- Settles O15: of the ends of a command only the two error reports set ERR. -/
theorem errorsChangeOnlyStatus : Obligations.ErrorsChangeOnlyStatus := by
  intro i s t h hbefore hafter
  have hclear : ¬ s.status.err = true := Bool.eq_false_iff.1 hbefore
  cases commandEnd_of_exec h with
  | badIndex => exact ⟨rfl, .inl ⟨rfl, rfl⟩⟩
  | entropyFail => exact ⟨rfl, .inr rfl⟩
  | _ => exact absurd hafter hclear

/-- Settles O16: the field check comes before everything else a command does. -/
theorem badFieldEndsWithBadIndex : Obligations.BadFieldEndsWithBadIndex := fun _ _ hwf => exec_of_not_wf hwf

/-- Settles O21: every end of a command but UNIFORM's going on sets DONE, and so does a refusal, while acceptance clears
DONE and ERR and an overrun leaves them. -/
theorem irqFollowsReports : Obligations.IrqFollowsReports := by
  refine ⟨fun i s t h hidle => ?_, fun s w => ?_⟩
  · have hie := (commandFrame_of_exec h).ie_eq
    rcases (commandEnd_of_exec h).reports with ⟨-, ⟨-, -, hdone⟩ | ⟨hrun, -⟩⟩
    · rw [State.irq, hdone, hie, Bool.true_or, Bool.and_true]
    · exact absurd hidle hrun
  · obtain ⟨hoverrun, hrefused, haccepted, -⟩ := cmdWriteIssuesOrOverruns s w
    cases hbusy : s.status.busy with
    | true => exact ⟨_, hoverrun hbusy, fun _ => rfl, nofun, nofun⟩
    | false =>
      cases hdec : decode s.cfg.npoly w with
      | error e => exact ⟨_, hrefused e hbusy hdec, nofun, fun _ _ _ => Bool.and_true _, fun _ _ => nofun⟩
      | ok i => exact ⟨_, haccepted i hbusy hdec, nofun, fun _ _ => nofun, fun _ _ _ => Bool.and_false _⟩

/-- Settles O39: a buffer that a command does not write reads as before, and one it writes holds result words. -/
theorem writtenWordsMeetInputRanges : Obligations.WrittenWordsMeetInputRanges := by
  intro i s t hrom h p
  have htick := (commandFrame_of_exec h).tick_eq
  rcases (commandEnd_of_exec h).mem_cases with hmem | ⟨rd, ws, -, -, hws, hmem⟩
  · exact .inl (State.poly_congr hmem htick p)
  · rw [State.poly_congr (u := s.finishPoly rd ws) hmem htick]
    by_cases hp : p = rd
    · rw [hp, State.poly_finishPoly hws.isBuffer]
      exact .inr (hws.le hrom)
    · exact .inl (s.poly_writePoly_other hws.isBuffer.1 hp)

end Sys2Proof.Machine
end

section
/-! SUPPORT. Everything an accepted host write can do (spec/10_state.md R110 to R123, spec/20_memory.md R206), and the
offsets at which it does it. -/
namespace Sys2Proof.Machine

/-! ## The register map read backwards -/

section
variable {npoly off : Nat}

theorem eq_of_hostReg_ctrl (h : hostReg npoly off = .ctrl) : off = 0x010 := by
  simp only [hostReg, ite_eq_iff, reduceCtorEq, and_false, or_false, false_or, and_true] at h
  omega

theorem eq_of_hostReg_status (h : hostReg npoly off = .status) : off = 0x014 := by
  simp only [hostReg, ite_eq_iff, reduceCtorEq, and_false, or_false, false_or, and_true] at h
  omega

theorem eq_of_hostReg_cmd (h : hostReg npoly off = .cmd) : off = 0x018 := by
  simp only [hostReg, ite_eq_iff, reduceCtorEq, and_false, or_false, false_or, and_true] at h
  omega

/-- The POLY window holds the pairs of the buffers that exist (R203). -/
theorem lt_of_hostReg_poly {p w : Nat} (h : hostReg npoly off = .poly p w) : p < npoly ∧ w < 512 := by
  simp only [hostReg, ite_eq_iff, reduceCtorEq, and_false, or_false, false_or, HostReg.poly.injEq] at h
  omega

end

/-! ## The effects of a write -/

/-- The states that an accepted write of v at an aligned offset can leave. -/
inductive WriteEffect (s : State) (v : Word32) : Offset → State → Prop
  | softReset (h : v.getLsbD 1 = true) : WriteEffect s v 0x010 s.softReset
  | ie : WriteEffect s v 0x010 { s with ie := v.getLsbD 0 }
  | acknowledge : WriteEffect s v 0x014 (s.acknowledge v)
  | issue : WriteEffect s v 0x018 (s.issue v)
  | sopa (off : Offset) : WriteEffect s v off { s with sopa := v }
  | seed (off : Offset) (k : Fin 8) : WriteEffect s v off { s with seed := s.seed.set k v }
  | poly (off : Offset) (p w : Nat) (hp : p < s.cfg.npoly) (hw : w < 512) : WriteEffect s v off (s.writePair p w v)
  | ignored (off : Offset) : WriteEffect s v off s

theorem State.writeReg_effect (s : State) (off : Offset) (v : Word32) : WriteEffect s v off (s.writeReg off v) := by
  have hoff : ∀ {o : Offset}, off.toNat = o.toNat → off = o := BitVec.eq_of_toNat_eq
  unfold State.writeReg
  cases hreg : hostReg s.cfg.npoly off.toNat with
  | ctrl =>
    obtain rfl := hoff (o := 0x010) (eq_of_hostReg_ctrl hreg)
    dsimp only
    split
    case isTrue h => exact .softReset h
    case isFalse => exact .ie
  | status =>
    obtain rfl := hoff (o := 0x014) (eq_of_hostReg_status hreg)
    exact .acknowledge
  | cmd =>
    obtain rfl := hoff (o := 0x018) (eq_of_hostReg_cmd hreg)
    exact .issue
  | sopa =>
    dsimp only
    split
    · exact .ignored off
    · exact .sopa off
  | seed k =>
    dsimp only
    split
    · exact .ignored off
    · exact .seed off k
  | poly p w =>
    obtain ⟨hp, hw⟩ := lt_of_hostReg_poly hreg
    dsimp only
    split
    · exact .ignored off
    · exact .poly off p w hp hw
  | id | cfg0 | cfg1 | sres | key | reserved => exact .ignored off

/-- Everything a CMD write can do (R118, R902). -/
theorem State.issue_cases (s : State) (w : Word32) :
    (s.status.busy = true ∧ s.issue w = { s with status := s.status.overrun }) ∨
    (s.status.busy = false ∧ ∃ e, s.issue w = { s with status := s.status.cleared.failed e, eng := .idle }) ∨
    (s.status.busy = false ∧ (∃ i, decode s.cfg.npoly w = .ok i) ∧
      s.issue w = { s with status := s.status.started, eng := .run w 0 }) := by
  cases hbusy : s.status.busy with
  | true => exact .inl ⟨rfl, State.issue_of_busy w hbusy⟩
  | false =>
    cases hdec : decode s.cfg.npoly w with
    | error e =>
      refine .inr (.inl ⟨rfl, e, ?_⟩)
      rw [State.issue_of_decode_error hbusy hdec, Status.cleared, Status.failed]
    | ok i =>
      refine .inr (.inr ⟨rfl, ⟨i, rfl⟩, ?_⟩)
      rw [State.issue_of_decode_ok hbusy hdec, Status.started, Status.cleared]

end Sys2Proof.Machine
end

section
/-! SUPPORT. The invariant in its two parts, the buffer file and the control state, and what keeps each
(spec/10_state.md R101, R116, R124, R130; spec/49_system.md R901). -/
namespace Sys2Proof.Machine

/-! ## The buffer file -/

/-- The part of the invariant about the buffer file. -/
structure ValidFile (npoly : Nat) (m : Memory) : Prop where
  wf     : m.wf = true
  inFile : m.inFile npoly = true
  paired : m.paired

section
variable {npoly b n : Nat} {m : Memory} {bs : List Byte}

theorem validFile_nil (npoly : Nat) : ValidFile npoly [] := ⟨rfl, rfl, fun _ => rfl⟩

theorem Memory.inFile_iff : m.inFile npoly = true ↔ ∀ c ∈ m, 0x1000 ≤ c.1 ∧ c.1 < 0x1000 + 0x800 * npoly := by
  simp only [Memory.inFile, List.all_eq_true, Bool.and_eq_true, decide_eq_true_eq]

/-- A cell after a store is an old one or one of those stored. -/
theorem Memory.mem_store {c : Host.Cell} (h : c ∈ m.store b bs) : c ∈ m ∨ b ≤ c.1 ∧ c.1 < b + bs.length := by
  simp only [Memory.store, List.mem_append] at h
  obtain (h | h) | h := h
  · exact .inl (List.mem_of_mem_filter h)
  · exact .inr (Memory.mem_run h)
  · exact .inl (List.mem_of_mem_filter h)

theorem Memory.mem_of_mem_forget {c : Host.Cell} (h : c ∈ m.forget b n) : c ∈ m := by
  rcases List.mem_append.1 h with h | h
  · exact List.mem_of_mem_filter h
  · exact List.mem_of_mem_filter h

/-- Whole words stored inside the file keep it valid. -/
theorem ValidFile.store (h : ValidFile npoly m) (hb : 2 ∣ b) (hbs : 2 ∣ bs.length) (hlo : 0x1000 ≤ b)
    (hhi : b + bs.length ≤ 0x1000 + 0x800 * npoly) : ValidFile npoly (m.store b bs) where
  wf := Memory.wf_store h.wf
  inFile := Memory.inFile_iff.2 fun c hc => by
    rcases Memory.mem_store hc with hold | hnew
    · exact Memory.inFile_iff.1 h.inFile c hold
    · omega
  paired k := by
    rw [Memory.read_store, Memory.read_store]
    by_cases hin : b ≤ 2 * k ∧ 2 * k < b + bs.length
    · have hnext : b ≤ 2 * k + 1 ∧ 2 * k + 1 < b + bs.length := by omega
      rw [if_pos hin, if_pos hnext, List.getElem?_eq_getElem (by omega), List.getElem?_eq_getElem (by omega)]
      rfl
    · have hnext : ¬ (b ≤ 2 * k + 1 ∧ 2 * k + 1 < b + bs.length) := by omega
      rw [if_neg hin, if_neg hnext]
      exact h.paired k

/-- Whole words forgotten keep the file valid. -/
theorem ValidFile.forget (h : ValidFile npoly m) (hb : 2 ∣ b) (hn : 2 ∣ n) : ValidFile npoly (m.forget b n) where
  wf := Memory.wf_forget h.wf
  inFile := Memory.inFile_iff.2 fun c hc => Memory.inFile_iff.1 h.inFile c (Memory.mem_of_mem_forget hc)
  paired k := by
    rw [Memory.read_forget, Memory.read_forget]
    by_cases hin : b ≤ 2 * k ∧ 2 * k < b + n
    · rw [if_pos hin, if_pos (by omega)]
    · rw [if_neg hin, if_neg (by omega)]
      exact h.paired k

theorem two_dvd_bufBase (p : Nat) : 2 ∣ bufBase p := by
  rw [bufBase]
  omega

theorem ValidFile.writePoly {s : State} {p : BufIdx} {ws : List Nat} (h : ValidFile npoly s.mem) (hp : p.toNat < npoly)
    (hlen : ws.length = 1024) : ValidFile npoly (s.writePoly p ws).mem := by
  refine h.store (two_dvd_bufBase _) ?_ ?_ ?_ <;> simp only [bytesOfWords_length, bufBase, hlen] <;> omega

theorem ValidFile.writePair {s : State} {p w : Nat} (h : ValidFile npoly s.mem) (hp : p < npoly) (hw : w < 512)
    (v : Word32) : ValidFile npoly (s.writePair p w v).mem := by
  refine h.store ?_ ?_ ?_ ?_ <;> simp only [bytesOfWord32_length, bufBase] <;> omega

theorem ValidFile.memAfterAbort {s : State} (h : ValidFile npoly s.mem) : ValidFile npoly s.memAfterAbort := by
  cases hrun : s.running with
  | none => rwa [State.memAfterAbort_of_not_running hrun]
  | some i =>
    cases hdest : destination i with
    | none => rwa [State.memAfterAbort_of_no_destination hrun hdest]
    | some rd =>
      rw [State.memAfterAbort_of_destination hrun hdest]
      exact h.forget (two_dvd_bufBase _) (by norm_num)

end

/-! ## STATUS and ENG -/

/-- ERR and ERRCODE agree, and no code above 4 is reported (R116, R1001). -/
structure ValidErrcode (t : Status) : Prop where
  errIff : t.err = true ↔ t.errcode ≠ 0
  le     : t.errcode.toNat ≤ 4

/-- The part of the invariant about STATUS and ENG. -/
inductive ValidControl (npoly : Nat) (t : Status) : Engine → Prop
  | idle (hbusy : t.busy = false) (herr : ValidErrcode t) : ValidControl npoly t .idle
  | run (w : Word32) (n : Nat) (hbusy : t.busy = true) (hdone : t.done = false) (herr : t.err = false)
      (hcode : t.errcode = 0) (hlegal : ∃ i, decode npoly w = .ok i)
      (hprogress : n = 0 ∨ ∃ rd, decodeWord w = .ok (.uniform rd)) : ValidControl npoly t (.run w n)

section
variable {npoly : Nat} {t u : Status} {e : Engine}

theorem validErrcode_of_no_error (herr : t.err = false) (hcode : t.errcode = 0) : ValidErrcode t :=
  ⟨by simp [herr, hcode], by simp [hcode]⟩

theorem cmdError_code_ne_zero (e : CmdError) : e.code ≠ 0 := by cases e <;> decide

theorem cmdError_code_le (e : CmdError) : e.code.toNat ≤ 4 := by cases e <;> decide

theorem validErrcode_failed (t : Status) (e : CmdError) : ValidErrcode (t.failed e) :=
  ⟨iff_of_true rfl (cmdError_code_ne_zero e), cmdError_code_le e⟩

theorem ValidControl.validErrcode (h : ValidControl npoly t e) : ValidErrcode t := by
  cases h with
  | idle _ herr => exact herr
  | run w n _ _ herr hcode => exact validErrcode_of_no_error herr hcode

/-- No part of the invariant is about CMDOVF. -/
theorem ValidControl.overrun (h : ValidControl npoly t e) : ValidControl npoly t.overrun e := by
  cases h with
  | idle hbusy herr => exact .idle hbusy ⟨herr.errIff, herr.le⟩
  | run w n hbusy hdone herr hcode hlegal hprogress => exact .run w n hbusy hdone herr hcode hlegal hprogress

theorem ValidErrcode.writeOneToClear (h : ValidErrcode t) (v : Word32) : ValidErrcode (t.writeOneToClear v) := by
  cases hv : v.getLsbD 2 with
  | true =>
    refine validErrcode_of_no_error ?_ ?_
    · rw [Status.writeOneToClear_err, hv, Bool.not_true, Bool.and_false]
    · rw [Status.writeOneToClear_errcode, hv, if_pos rfl]
  | false =>
    have herr : (t.writeOneToClear v).err = t.err := by
      rw [Status.writeOneToClear_err, hv, Bool.not_false, Bool.and_true]
    have hcode : (t.writeOneToClear v).errcode = t.errcode := by
      rw [Status.writeOneToClear_errcode, hv, if_neg Bool.false_ne_true]
    exact ⟨by rw [herr, hcode]; exact h.errIff, by rw [hcode]; exact h.le⟩

theorem ValidControl.writeOneToClear (h : ValidControl npoly t e) (v : Word32) :
    ValidControl npoly (t.writeOneToClear v) e := by
  cases h with
  | idle hbusy herr => exact .idle hbusy (herr.writeOneToClear v)
  | run w n hbusy hdone herr hcode hlegal hprogress =>
    exact .run w n hbusy (by simp [hdone]) (by simp [herr]) (by simp [hcode]) hlegal hprogress

theorem validControl_failed (npoly : Nat) (t : Status) (e : CmdError) : ValidControl npoly (t.failed e) .idle :=
  .idle rfl (validErrcode_failed t e)

theorem validControl_completed (h : ValidErrcode t) : ValidControl npoly t.completed .idle :=
  .idle rfl ⟨h.errIff, h.le⟩

theorem validControl_zero (npoly : Nat) : ValidControl npoly Status.zero .idle :=
  .idle rfl (validErrcode_of_no_error rfl rfl)

theorem validControl_started {w : Word32} (hlegal : ∃ i, decode npoly w = .ok i) :
    ValidControl npoly t.started (.run w 0) :=
  .run w 0 rfl rfl rfl rfl hlegal (.inl rfl)

end

/-! ## The whole -/

/-- The invariant of the machine is that of its two parts. -/
theorem inv_iff {s : State} :
    Inv s ↔ ValidFile s.cfg.npoly s.mem ∧ ValidControl s.cfg.npoly s.status s.eng := by
  constructor
  · intro h
    refine ⟨⟨h.memWf, h.memInFile, h.memPaired⟩, ?_⟩
    cases heng : s.eng with
    | idle =>
      have hbusy : ¬ s.status.busy = true := fun hb => h.busyIff.1 hb heng
      exact .idle (Bool.eq_false_iff.2 hbusy) ⟨h.errIff, h.errcodeLe⟩
    | run w n =>
      have hbusy : s.status.busy = true := h.busyIff.2 (by simp [heng])
      obtain ⟨hdone, herr⟩ := h.busyClear hbusy
      have hcode : s.status.errcode = 0 := by
        by_contra hne
        simp [h.errIff.2 hne] at herr
      exact .run w n hbusy hdone herr hcode (h.runLegal w n heng) (h.runProgress w n heng)
  · rintro ⟨hfile, hcontrol⟩
    have herrcode := hcontrol.validErrcode
    generalize heng : s.eng = e at hcontrol
    cases hcontrol with
    | idle hbusy =>
      exact ⟨hfile.wf, hfile.inFile, hfile.paired, by simp [hbusy, heng], herrcode.errIff, herrcode.le,
        by simp [hbusy], by simp [heng], by simp [heng]⟩
    | run w n hbusy hdone herr hcode hlegal hprogress =>
      refine ⟨hfile.wf, hfile.inFile, hfile.paired, by simp [hbusy, heng], herrcode.errIff, herrcode.le,
        fun _ => ⟨hdone, herr⟩, fun w' n' heng' => ?_, fun w' n' heng' => ?_⟩
      · obtain ⟨rfl, rfl⟩ := Engine.run.inj (heng.symm.trans heng')
        exact hlegal
      · obtain ⟨rfl, rfl⟩ := Engine.run.inj (heng.symm.trans heng')
        exact hprogress

section
variable {s t : State}

/-- The invariant does not depend on the fields that it does not read. -/
theorem Inv.congr (h : Inv s) (hmem : t.mem = s.mem) (hcfg : t.cfg = s.cfg) (hstatus : t.status = s.status)
    (heng : t.eng = s.eng) : Inv t := by
  rw [inv_iff] at h ⊢
  rwa [hmem, hcfg, hstatus, heng]

theorem Inv.issue (h : Inv s) (w : Word32) : Inv (s.issue w) := by
  obtain ⟨hfile, hcontrol⟩ := inv_iff.1 h
  rcases s.issue_cases w with ⟨-, heq⟩ | ⟨-, e, heq⟩ | ⟨-, hlegal, heq⟩ <;> rw [heq, inv_iff]
  · exact ⟨hfile, hcontrol.overrun⟩
  · exact ⟨hfile, validControl_failed _ _ e⟩
  · exact ⟨hfile, validControl_started hlegal⟩

theorem Inv.softReset (h : Inv s) : Inv s.softReset :=
  inv_iff.2 ⟨(inv_iff.1 h).1.memAfterAbort, validControl_zero _⟩

theorem inv_hardReset (s : State) : Inv s.hardReset := inv_iff.2 ⟨validFile_nil _, validControl_zero _⟩

theorem Inv.writeEffect {off : Offset} {v : Word32} (h : Inv s) (heffect : WriteEffect s v off t) : Inv t := by
  cases heffect with
  | softReset => exact h.softReset
  | acknowledge =>
    obtain ⟨hfile, hcontrol⟩ := inv_iff.1 h
    exact inv_iff.2 ⟨hfile, hcontrol.writeOneToClear v⟩
  | issue => exact h.issue v
  | poly off p w hp hw =>
    obtain ⟨hfile, hcontrol⟩ := inv_iff.1 h
    exact inv_iff.2 ⟨hfile.writePair hp hw v, hcontrol⟩
  | ie | sopa | seed => exact h.congr rfl rfl rfl rfl
  | ignored => exact h

theorem Inv.hostWrite (h : Inv s) (a : Access) (v : Word32) : Inv (s.hostWrite a v) := by
  by_cases hok : a.ok = true
  · rw [State.hostWrite_of_ok _ _ _ hok]
    exact (h.writeEffect (s.writeReg_effect a.offset v)).congr rfl rfl rfl rfl
  · rw [State.hostWrite_of_not_ok _ _ _ hok]
    exact h.congr rfl rfl rfl rfl

theorem Inv.hostRead (h : Inv s) (a : Access) : Inv (s.hostRead a) := by
  by_cases hok : a.ok = true
  · rw [State.hostRead_of_ok _ _ hok]
    exact h.congr rfl rfl rfl rfl
  · rw [State.hostRead_of_not_ok _ _ hok]
    exact h.congr rfl rfl rfl rfl

theorem destination_mem_usedFields {i : Instr} {rd : BufIdx} (h : destination i = some rd) : rd ∈ i.usedFields := by
  cases i with
  | nop | smont | sbarr | reconcile => exact nomatch h
  | _ =>
    obtain rfl := Option.some.inj h
    exact List.mem_cons_self

/-- A running command's end keeps the invariant. That it was running matters where UNIFORM goes on: DONE and ERR are
then clear already. -/
theorem Inv.commandEnd {i : Instr} {w : Word32} {m : Nat} (h : Inv s) (heng : s.eng = .run w m)
    (hend : CommandEnd i s t) : Inv t := by
  obtain ⟨hfile, hcontrol⟩ := inv_iff.1 h
  have hdone := validControl_completed (npoly := s.cfg.npoly) hcontrol.validErrcode
  cases hend with
  | badIndex | entropyFail => exact inv_iff.2 ⟨hfile, validControl_failed _ _ _⟩
  | plain | scalar | key => exact inv_iff.2 ⟨hfile, hdone⟩
  | poly rd ws r hwf hdest hws =>
    have hrd : rd.toNat < s.cfg.npoly := Instr.wf_iff.1 hwf rd (destination_mem_usedFields hdest)
    exact inv_iff.2 ⟨hfile.writePoly hrd hws.isBuffer.1, hdone⟩
  | goesOn rd n hwf hi =>
    rw [heng] at hcontrol
    obtain - | ⟨-, -, -, hdone, herr, hcode⟩ := hcontrol
    have hdec : decode s.cfg.npoly (encode i) = .ok i := decode_of_decodeWord_ok (decodeWord_encode i) hwf
    exact inv_iff.2 ⟨hfile, .run _ n rfl hdone herr hcode ⟨i, hdec⟩ (.inr ⟨rd, hi ▸ decodeWord_encode i⟩)⟩

theorem Inv.engineTurn (h : Inv s) (hturn : s.engineTurn = .next t) : Inv t := by
  rcases State.engineTurn_cases hturn with ⟨-, rfl⟩ | ⟨w, n, i, heng, -, hexec⟩ | ⟨w, n, e, -, -, rfl⟩
  · exact h
  · exact h.commandEnd heng (commandEnd_of_exec hexec)
  · exact inv_iff.2 ⟨(inv_iff.1 h).1, validControl_failed _ _ e⟩

end

end Sys2Proof.Machine
end

section
/-! The statements about the invariant. -/
namespace Sys2Proof.Machine

/-- Settles O9: the state after reset has the fields a hardware reset leaves. -/
theorem resetMeetsInvariant : Obligations.ResetMeetsInvariant := (inv_hardReset State.reset).congr rfl rfl rfl rfl

/-- Settles O8: each event of a step keeps the invariant. -/
theorem stepKeepsInvariant : Obligations.StepKeepsInvariant := by
  intro s t h hstep
  have hbegin : Inv s.begin := h.congr rfl rfl rfl rfl
  rcases step_cases hstep with ⟨a, -, rfl⟩ | ⟨a, v, -, rfl⟩ | ⟨-, hturn⟩ | ⟨latency, -, rfl⟩ | ⟨-, rfl⟩
  · exact hbegin.hostRead a
  · exact hbegin.hostWrite a v
  · exact hbegin.engineTurn hturn
  · rw [State.poll_eq]
    exact hbegin.congr rfl rfl rfl rfl
  · exact inv_hardReset _

end Sys2Proof.Machine
end

section
/-! SUPPORT. The engine's turn as the next step, and the polls of WAIT (spec/30_encoding.md R306; spec/49_system.md
R900, R904). -/
namespace Sys2Proof.Machine

section
variable {s t : State} {i : Instr} {w : Word32} {n : Nat}

/-- The engine's turn answers a next state whatever is latched. -/
theorem State.exists_engineTurn (s : State) : ∃ t, s.engineTurn = .next t := by
  unfold State.engineTurn
  split
  case h_1 => exact ⟨_, rfl⟩
  case h_2 =>
    split
    case h_1 i _ =>
      obtain ⟨t, ht, -⟩ := exec_commandEnd i s
      exact ⟨t, ht⟩
    case h_2 => exact ⟨_, rfl⟩

/-- With the engine's turn next, the step runs the latched command. -/
theorem step_of_latched (heng : s.eng = .run w n) (hdec : decodeWord w = .ok i)
    (hturn : s.pending = [] ∨ ∃ rest, s.pending = .complete :: rest) : step s = exec i s.begin := by
  have hexec : s.begin.engineTurn = exec i s.begin := State.engineTurn_of_run (s := s.begin) heng hdec
  rcases hturn with hnone | ⟨rest, hcomplete⟩
  · rw [step_of_none_pending hnone, hexec]
  · rw [step_of_complete_pending hcomplete, hexec]

theorem decodeWord_of_decodeTableWord (h : decodeTableWord 32 n = some i) :
    decodeWord (BitVec.ofNat 32 (n % 2 ^ 32)) = .ok i := by
  unfold decodeTableWord at h
  split at h
  case h_1 j hdec => rw [hdec, Option.some.inj h]
  case h_2 => exact nomatch h

theorem State.engineTurn_cfg (h : s.engineTurn = .next t) : t.cfg = s.cfg := by
  rcases State.engineTurn_cases h with ⟨-, rfl⟩ | ⟨w, n, i, -, -, hexec⟩ | ⟨w, n, e, -, -, rfl⟩
  · rfl
  · exact (commandFrame_of_exec hexec).cfg_eq
  · rfl

theorem WriteEffect.cfg_eq {off : Offset} {v : Word32} (h : WriteEffect s v off t) : t.cfg = s.cfg := by
  cases h with
  | issue => rcases s.issue_cases v with ⟨-, heq⟩ | ⟨-, e, heq⟩ | ⟨-, -, heq⟩ <;> rw [heq]
  | _ => rfl

/-- The registers whose writes write STATUS (R117): CMD, STATUS, and CTRL with SRST. -/
theorem WriteEffect.offset_of_status_ne {off : Offset} {v : Word32} (h : WriteEffect s v off t)
    (hne : t.status ≠ s.status) : off = 0x018 ∨ off = 0x014 ∨ off = 0x010 ∧ v.getLsbD 1 = true := by
  cases h with
  | issue => exact .inl rfl
  | acknowledge => exact .inr (.inl rfl)
  | softReset hsrst => exact .inr (.inr ⟨rfl, hsrst⟩)
  | _ => exact absurd rfl hne

theorem Access.eq_aligned {a : Access} (h : a.ok = true) : a = aligned a.offset := by
  obtain ⟨hbytes, henables, -⟩ := (Access.ok_iff a).1 h
  cases a
  simp only at hbytes henables
  rw [hbytes, henables, aligned]

/-! ## WAIT (R306) -/

theorem step_wait (s : State) (latency : Nat) (rest : List Event) :
    step { s with pending := .wait latency :: rest } = .next ((s.atAccess rest).poll latency) := rfl

/-- A poll that reads BUSY = 0 ends WAIT. -/
theorem step_wait_of_idle (hbusy : s.status.busy = false) (latency : Nat) (rest : List Event) :
    step { s with pending := .wait latency :: rest }
      = .next { s with pending := rest, tick := s.tick + 1, bus := .data s.status.word } := by
  have hpoll := (s.atAccess rest).poll_eq latency
  rw [if_neg (show ¬ (s.atAccess rest).status.busy = true from Bool.eq_false_iff.1 hbusy)] at hpoll
  rw [step_wait, hpoll]
  rfl

/-- A poll that reads BUSY = 1 polls again, after the engine's turn where no further poll comes before it. -/
theorem step_wait_of_busy (hbusy : s.status.busy = true) (latency : Nat) (rest : List Event) :
    step { s with pending := .wait latency :: rest }
      = .next { s with pending := pollAgain latency ++ rest, tick := s.tick + 1, bus := .data s.status.word } := by
  have hpoll := (s.atAccess rest).poll_eq latency
  rw [if_pos (show (s.atAccess rest).status.busy = true from hbusy)] at hpoll
  rw [step_wait, hpoll]
  rfl

theorem run_core_succ (h : step s = .next t) (k : Nat) : Host.Core.run core (k + 1) s = Host.Core.run core k t :=
  run_succ_of_step (M := core) (s := s) (t := t) h k

/-- The state in which `latency + 1` polls of WAIT have read BUSY = 1 and the engine has the turn: only the model's own
fields have changed. -/
def State.polled (s : State) (latency : Nat) (rest : List Event) : State :=
  { s with pending := .complete :: .wait 0 :: rest, tick := s.tick + (latency + 1), bus := .data s.status.word }

theorem run_polls (hbusy : s.status.busy = true) (latency k : Nat) (rest : List Event) :
    Host.Core.run core (k + (latency + 1)) { s with pending := .wait latency :: rest }
      = Host.Core.run core k (s.polled latency rest) := by
  induction latency generalizing s with
  | zero => exact run_core_succ (step_wait_of_busy hbusy 0 rest) k
  | succ latency ih =>
    calc Host.Core.run core (k + (latency + 1) + 1) { s with pending := .wait (latency + 1) :: rest }
        = Host.Core.run core (k + (latency + 1))
            { s with pending := .wait latency :: rest, tick := s.tick + 1, bus := .data s.status.word } :=
          run_core_succ (step_wait_of_busy hbusy (latency + 1) rest) _
      _ = Host.Core.run core k
            (State.polled { s with tick := s.tick + 1, bus := .data s.status.word } latency rest) :=
          ih (s := { s with tick := s.tick + 1, bus := .data s.status.word }) hbusy
      _ = Host.Core.run core k (s.polled (latency + 1) rest) := by
          rw [State.polled, State.polled, Nat.add_assoc s.tick, Nat.add_comm 1]

/-- A command other than UNIFORM completes in the engine's turn (R904). -/
theorem exec_completes (i : Instr) (hi : ∀ rd, i ≠ .uniform rd) (s : State) :
    ∃ t, exec i s = .next t ∧ t.pending = s.pending ∧ t.eng = .idle ∧ t.status.busy = false ∧ t.status.done = true ∧
      t.status.cmdovf = s.status.cmdovf := by
  obtain ⟨t, hexec, hend⟩ := exec_commandEnd i s
  have hpending := (commandFrame_of_exec hexec).pending_eq
  obtain ⟨hcmdovf, ⟨hidle, hbusy, hdone⟩ | ⟨-, rd, hrd⟩⟩ := hend.reports
  · exact ⟨t, hexec, hpending, hidle, hbusy, hdone, hcmdovf⟩
  · exact absurd hrd (hi rd)

end

end Sys2Proof.Machine
end

section
/-! The statements about the step (spec/49_system.md R900, R904; spec/60_exceptions.md R1004, R1008; spec/10_state.md
R117; spec/41_ntt.md R508). -/
namespace Sys2Proof.Machine

/-- Settles O6: the placed word is latched with the engine's turn next. -/
theorem stepRunsLatchedCommand : Obligations.StepRunsLatchedCommand :=
  ⟨fun _ _ _ _ heng hdec hturn => step_of_latched heng hdec hturn,
    fun s _ _ _ htable => step_of_latched (s := s.withFetchWord 32 _) rfl (decodeWord_of_decodeTableWord htable)
      (.inr ⟨_, rfl⟩)⟩

/-- Settles O7: each event's answer is a next state, the engine's turn with the others. -/
theorem everyStepAnswersNext : Obligations.EveryStepAnswersNext := by
  intro s
  unfold step
  cases s.nextEvent with
  | read | write | wait | hardReset => exact ⟨_, rfl⟩
  | complete => exact s.begin.exists_engineTurn

/-- Settles O11: no event's answer changes the parameters, both resets keeping them. -/
theorem parametersAreConstant : Obligations.ParametersAreConstant := by
  intro s t hstep
  rcases step_cases hstep with ⟨a, -, rfl⟩ | ⟨a, v, -, rfl⟩ | ⟨-, hturn⟩ | ⟨latency, -, rfl⟩ | ⟨-, rfl⟩
  · rw [State.hostRead]
    split <;> rfl
  · rw [State.hostWrite]
    split
    case isTrue => exact (s.begin.writeReg_effect a.offset v).cfg_eq
    case isFalse => rfl
  · exact State.engineTurn_cfg (s := s.begin) hturn
  · rw [State.poll_eq]
    rfl
  · rfl

/-- Settles O13: the polls come to the engine's turn, which completes the command, and the next poll reads BUSY = 0. -/
theorem runningCommandCompletes : Obligations.RunningCommandCompletes := by
  refine ⟨fun s w n i heng hdec hi => ⟨fun hpending => ?_, fun hbusy latency rest => ?_⟩,
    fun s latency rest hbusy => step_wait_of_idle hbusy latency rest⟩
  · obtain ⟨t, hexec, -, hreports⟩ := exec_completes i hi s.begin
    exact ⟨t, (step_of_latched heng hdec (.inl hpending)).trans hexec, hreports⟩
  · obtain ⟨t, hexec, hpending, hidle, hbusy', hdone, -⟩ := exec_completes i hi (s.polled latency rest).begin
    have hturn : step (s.polled latency rest) = .next t :=
      (step_of_latched (s := s.polled latency rest) heng hdec (.inr ⟨_, rfl⟩)).trans hexec
    have hlast : step t = .next { t with pending := rest, tick := t.tick + 1, bus := .data t.status.word } := by
      have hwait := step_wait_of_idle hbusy' 0 rest
      rwa [← show t.pending = .wait 0 :: rest from hpending] at hwait
    have hrun : Host.Core.run core (latency + 3) { s with pending := wait latency ++ rest }
        = .next { t with pending := rest, tick := t.tick + 1, bus := .data t.status.word } := by
      rw [show latency + 3 = 2 + (latency + 1) by omega]
      exact (run_polls hbusy latency 2 rest).trans (run_two_of_steps hturn hlast)
    exact ⟨_, hrun, rfl, rfl, hidle, hbusy', hdone⟩

/-- Settles O19: reads, polls and an idle engine's turn leave STATUS, and of the writes only those to three offsets do
not. -/
theorem onlyListedEventsWriteStatus : Obligations.OnlyListedEventsWriteStatus := by
  intro s t hstep hne
  rcases step_cases hstep with ⟨a, -, rfl⟩ | ⟨a, v, hevent, rfl⟩ | ⟨hevent, hturn⟩ | ⟨latency, -, rfl⟩ | ⟨hevent, -⟩
  · refine absurd ?_ hne
    rw [State.hostRead]
    split <;> rfl
  · by_cases hok : a.ok = true
    · rw [State.hostWrite_of_ok _ _ _ hok] at hne
      rw [hevent, Access.eq_aligned hok]
      rcases (s.begin.writeReg_effect a.offset v).offset_of_status_ne hne with hoff | hoff | ⟨hoff, hsrst⟩ <;> rw [hoff]
      · exact .inr (.inr (.inl ⟨v, rfl⟩))
      · exact .inr (.inr (.inr (.inl ⟨v, rfl⟩)))
      · exact .inr (.inr (.inr (.inr ⟨v, rfl, hsrst⟩)))
    · rw [State.hostWrite_of_not_ok _ _ _ hok] at hne
      exact absurd rfl hne
  · refine .inl ⟨hevent, fun hidle => hne ?_⟩
    rw [State.engineTurn_of_idle (s := s.begin) hidle] at hturn
    rw [← Host.Outcome.next.inj hturn, State.begin_status]
  · rw [State.poll_eq] at hne
    exact absurd rfl hne
  · exact .inr (.inl hevent)

end Sys2Proof.Machine
end

section
/-! SUPPORT. The remaining rules of host registers (spec/10_state.md R114 to R116, R121 to R123): the bits of STATUS,
SOPA, SRES, KEY, CTRL and the reserved offsets. -/
namespace Sys2Proof.Machine

/-! ## STATUS (R116) -/

theorem getLsbD_setWidth_shiftLeft_four (c : BitVec 4) (i : Nat) :
    (c.setWidth 32 <<< 4).getLsbD i = (decide (4 ≤ i) && c.getLsbD (i - 4)) := by
  rw [BitVec.getLsbD_shiftLeft, BitVec.getLsbD_setWidth]
  rcases Nat.lt_or_ge i 8 with hi | hi
  · rw [decide_eq_true (show i < 32 by omega), decide_eq_true (show i - 4 < 32 by omega), Bool.true_and, Bool.true_and,
      ← decide_not, decide_eq_decide.2 Nat.not_lt]
  · rw [BitVec.getLsbD_of_ge c (i - 4) (by omega)]
    simp only [Bool.and_false]

theorem Status.getLsbD_word (t : Status) (i : Nat) :
    t.word.getLsbD i =
      (t.busy && decide (i = 0) || t.done && decide (i = 1) || t.err && decide (i = 2) || t.cmdovf && decide (i = 3) ||
        decide (4 ≤ i) && t.errcode.getLsbD (i - 4)) := by
  simp only [Status.word, BitVec.getLsbD_or, getLsbD_bitAt (show 0 < 32 by decide),
    getLsbD_bitAt (show 1 < 32 by decide), getLsbD_bitAt (show 2 < 32 by decide),
    getLsbD_bitAt (show 3 < 32 by decide), getLsbD_setWidth_shiftLeft_four]

theorem Status.word_flags (t : Status) :
    t.word.getLsbD 0 = t.busy ∧ t.word.getLsbD 1 = t.done ∧ t.word.getLsbD 2 = t.err ∧ t.word.getLsbD 3 = t.cmdovf := by
  simp only [Status.getLsbD_word]
  simp

theorem Status.word_errcode (t : Status) : t.word.extractLsb' 4 4 = t.errcode := by
  refine BitVec.eq_of_getLsbD_eq fun i hi => ?_
  rw [BitVec.getLsbD_extractLsb', Status.getLsbD_word]
  simp [hi, show 4 + i ≠ 1 by omega, show 4 + i ≠ 2 by omega, show 4 + i ≠ 3 by omega]

theorem Status.word_reserved (t : Status) : t.word.extractLsb' 8 24 = 0 := by
  refine BitVec.eq_of_getLsbD_eq fun i hi => ?_
  rw [BitVec.getLsbD_extractLsb', Status.getLsbD_word, BitVec.getLsbD_of_ge t.errcode _ (by omega)]
  simp [show 8 + i ≠ 1 by omega, show 8 + i ≠ 2 by omega, show 8 + i ≠ 3 by omega]

/-- Write 1 to clear, bit by bit: a 1 clears the flag, and ERRCODE goes with ERR. -/
theorem Status.writeOneToClear_eq (t : Status) (v : Word32) :
    t.writeOneToClear v =
      { busy := t.busy
        done := if v.getLsbD 1 then false else t.done
        err := if v.getLsbD 2 then false else t.err
        cmdovf := if v.getLsbD 3 then false else t.cmdovf
        errcode := if v.getLsbD 2 then 0 else t.errcode } := by
  have hflag : ∀ flag clear : Bool, (flag && !clear) = if clear then false else flag := by decide
  rw [Status.writeOneToClear, hflag, hflag, hflag]

/-! ## KEY (R121) -/

/-- The aligned offset of KEYk. -/
abbrev keyOffset (k : Fin 8) : Offset := BitVec.ofNat 16 (0x060 + 4 * k.val)

theorem keyOffset_toNat (k : Fin 8) : (keyOffset k).toNat = 0x060 + 4 * k.val := by
  rw [BitVec.toNat_ofNat]
  omega

theorem keyOffset_aligned (k : Fin 8) : (keyOffset k).toNat % 4 = 0 := by
  rw [keyOffset_toNat]
  omega

theorem hostReg_keyOffset (npoly : Nat) (k : Fin 8) : hostReg npoly (keyOffset k).toNat = .key k := by
  have hk : Fin.ofNat 8 ((0x060 + 4 * k.val - 0x060) / 4) = k := Fin.ext (by simp)
  rw [keyOffset_toNat, hostReg, if_neg (by omega), if_neg (by omega), if_neg (by omega), if_neg (by omega),
    if_neg (by omega), if_neg (by omega), if_neg (by omega), if_neg (by omega), if_neg (by omega), if_pos (by omega),
    hk]

section
variable {s : State} {v : Word32}

theorem State.readReg_key_of_idle (k : Fin 8) (h : s.status.busy = false) : s.readReg (keyOffset k) = s.key[k] := by
  rw [State.readReg, hostReg_keyOffset]
  simp only [h, Bool.false_eq_true, if_false]

theorem State.writeReg_key (s : State) (k : Fin 8) (v : Word32) : s.writeReg (keyOffset k) v = s := by
  rw [State.writeReg, hostReg_keyOffset]

/-! ## SOPA, SRES and CTRL (R115, R122, R123) -/

theorem State.readReg_status (s : State) : s.readReg 0x014 = s.status.word := rfl
theorem State.readReg_sopa (s : State) : s.readReg 0x01C = s.sopa := rfl
theorem State.readReg_ctrl (s : State) : s.readReg 0x010 = bitAt 0 s.ie := rfl
theorem State.writeReg_sres (s : State) (v : Word32) : s.writeReg 0x020 v = s := rfl

theorem State.readReg_sres_of_idle (h : s.status.busy = false) : s.readReg 0x020 = s.sres.setWidth 32 := by
  have hsres : s.readReg 0x020 = if s.status.busy then Config.busyRead s.tick 0x020 else s.sres.setWidth 32 := rfl
  rw [hsres, h, if_neg Bool.false_ne_true]

theorem State.writeReg_sopa (s : State) (v : Word32) :
    s.writeReg 0x01C v = if s.status.busy then s else { s with sopa := v } := rfl

theorem State.writeReg_sopa_of_idle (v : Word32) (h : s.status.busy = false) :
    s.writeReg 0x01C v = { s with sopa := v } := by
  rw [State.writeReg_sopa, h, if_neg Bool.false_ne_true]

theorem State.writeReg_sopa_of_busy (v : Word32) (h : s.status.busy = true) : s.writeReg 0x01C v = s := by
  rw [State.writeReg_sopa, if_pos h]

/-! ## Reserved offsets (R114) -/

/-- The offsets of R114 in the register map. -/
theorem hostReg_eq_reserved {npoly off : Nat}
    (h : off = 0x00C ∨ (0x024 ≤ off ∧ off < 0x040) ∨ (0x080 ≤ off ∧ off < 0x1000) ∨ 0x1000 + 0x800 * npoly ≤ off) :
    hostReg npoly off = .reserved := by
  rw [hostReg, if_neg (by omega), if_neg (by omega), if_neg (by omega), if_neg (by omega), if_neg (by omega),
    if_neg (by omega), if_neg (by omega), if_neg (by omega), if_neg (by omega), if_neg (by omega), if_neg (by omega)]

theorem State.readReg_of_reserved {off : Offset} (h : hostReg s.cfg.npoly off.toNat = .reserved) :
    s.readReg off = 0 := by
  rw [State.readReg, h]

theorem State.writeReg_of_reserved {off : Offset} (h : hostReg s.cfg.npoly off.toNat = .reserved) (v : Word32) :
    s.writeReg off v = s := by
  rw [State.writeReg, h]

end

end Sys2Proof.Machine
end

section
/-! The statements about STATUS, SOPA, SRES, KEY, CTRL, the reserved offsets and the reset values (spec/10_state.md
R114 to R116, R121 to R123, R134). -/
namespace Sys2Proof.Machine

/-- Settles O18: the read is the word of STATUS, whose bits are its fields, and the write is the acknowledgement. -/
theorem statusReadAndClear : Obligations.StatusReadAndClear := by
  intro s v
  obtain ⟨hbusy, hdone, herr, hcmdovf⟩ := s.status.word_flags
  refine ⟨⟨s.status.word, ?_, hbusy, hdone, herr, hcmdovf, s.status.word_errcode, s.status.word_reserved⟩, ?_⟩
  · exact readsAs_of_readReg rfl fun rest => (s.atAccess rest).readReg_status
  · rw [← Status.writeOneToClear_eq]
    exact writesTo_of_writeReg rfl rfl fun rest => (s.atAccess rest).writeReg_status v

/-- Settles O24: each register's read and write rules. -/
theorem scalarKeyAndControlRegisters : Obligations.ScalarKeyAndControlRegisters := by
  intro s k v
  refine ⟨?_, fun hidle => ?_, fun hbusy => ?_, fun hidle => ?_, ?_, fun hidle => ?_, ?_, ?_, fun hsrst => ?_⟩
  · exact readsAs_of_readReg rfl fun rest => (s.atAccess rest).readReg_sopa
  · exact writesTo_of_writeReg rfl rfl fun rest => State.writeReg_sopa_of_idle (s := s.atAccess rest) v hidle
  · exact writesTo_of_writeReg rfl rfl fun rest => State.writeReg_sopa_of_busy (s := s.atAccess rest) v hbusy
  · exact readsAs_of_readReg rfl fun rest => State.readReg_sres_of_idle (s := s.atAccess rest) hidle
  · exact writesTo_of_writeReg rfl rfl fun rest => (s.atAccess rest).writeReg_sres v
  · exact readsAs_of_readReg (keyOffset_aligned k) fun rest =>
      State.readReg_key_of_idle (s := s.atAccess rest) k hidle
  · exact writesTo_of_writeReg (keyOffset_aligned k) rfl fun rest => (s.atAccess rest).writeReg_key k v
  · exact readsAs_of_readReg rfl fun rest => (s.atAccess rest).readReg_ctrl
  · exact writesTo_of_writeReg rfl rfl fun rest => (s.atAccess rest).writeReg_ctrl_of_no_srst v hsrst

/-- Settles O25: every such offset is reserved in the register map, whatever BUSY is. -/
theorem reservedOffsets : Obligations.ReservedOffsets := by
  intro s off v _ haligned hoff
  have hreserved : hostReg s.cfg.npoly off.toNat = .reserved := by
    refine hostReg_eq_reserved (hoff.imp_left fun h => ?_)
    rw [h]
    rfl
  exact ⟨readsAs_of_readReg haligned fun rest => State.readReg_of_reserved (s := s.atAccess rest) hreserved,
    writesTo_of_writeReg haligned rfl fun rest => State.writeReg_of_reserved (s := s.atAccess rest) hreserved v⟩

/-- Settles O10: each register's read rule at the state after reset, where BUSY = 0. -/
theorem resetReads : Obligations.ResetReads := by
  obtain ⟨⟨hid, -⟩, -, -, -, -, hcfg⟩ := configurationRegisters State.reset 0 (by decide) (by decide)
  obtain ⟨hcfg0, hcfg1⟩ := hcfg rfl
  have hregs := fun k => scalarKeyAndControlRegisters State.reset k 0
  obtain ⟨hsopa, -, -, hsres, -, -, -, hctrl, -⟩ := hregs 0
  have hstatus : Status.zero.word = 0 := by decide
  have hzero : ∀ k : Fin 8, (#v[0, 0, 0, 0, 0, 0, 0, 0] : Vector Word32 8)[k] = 0 := by decide
  refine ⟨hid, hcfg0, hcfg1, hctrl, ?_, hsopa, hsres rfl, fun k => ?_, fun k => ?_, fun _ => rfl, rfl, rfl⟩
  · exact readsAs_of_readReg rfl fun rest => (State.reset.atAccess rest).readReg_status.trans hstatus
  · exact readsAs_of_readReg (seedOffset_aligned k) fun rest =>
      ((State.reset.atAccess rest).readReg_seed k).trans (hzero k)
  · exact readsAs_of_readReg (keyOffset_aligned k) fun rest =>
      (State.readReg_key_of_idle (s := State.reset.atAccess rest) k rfl).trans (hzero k)

end Sys2Proof.Machine
end

section
/-! SUPPORT. R505's loops at one level (spec/41_ntt.md R505): the butterflies of a level touch different words, so
doing them one after the other in place gives what `netLevel` gives at once. -/
namespace Sys2Proof.Machine

/-! ## One butterfly in place -/

theorem wordAt_set (a : List Nat) (i x j : Nat) (hi : i < a.length) :
    wordAt (a.set i x) j = if i = j then x else wordAt a j := by
  rw [wordAt, wordAt, List.getD_eq_getElem?_getD, List.getD_eq_getElem?_getD, List.getElem?_set]
  by_cases h : i = j
  · rw [if_pos h, if_pos h, if_pos hi, Option.getD_some]
  · rw [if_neg h, if_neg h]

/-- A butterfly of a level, by the variables of R505's two inner loops. -/
structure Butterfly where
  start : Nat
  k     : Nat

/-- The lower position of a butterfly at distance d: word `start` of block k. -/
def Butterfly.low (d : Nat) (p : Butterfly) : Nat := d * (2 * p.k) + p.start

/-- The upper position of a butterfly. -/
def Butterfly.high (d : Nat) (p : Butterfly) : Nat := d * (2 * p.k + 1) + p.start

section
variable {d : Nat} {p q : Butterfly} {odd : Bool} {tw a : List Nat}

theorem Butterfly.high_eq (d : Nat) (p : Butterfly) : p.high d = p.low d + d := by
  rw [Butterfly.high, Butterfly.low]
  ring

/-- Two butterflies of a level that share a position are one. -/
theorem Butterfly.eq_of_block {m n : Nat} (hp : p.start < d) (hq : q.start < d)
    (h : d * m + p.start = d * n + q.start) : m = n ∧ p.start = q.start := by
  have hd : 0 < d := by omega
  have hdiv : ∀ {m r : Nat}, r < d → (d * m + r) / d = m := fun hr => by
    rw [Nat.mul_add_div hd, Nat.div_eq_of_lt hr, Nat.add_zero]
  have hmod : ∀ {m r : Nat}, r < d → (d * m + r) % d = r := fun hr => by
    rw [Nat.mul_add_mod, Nat.mod_eq_of_lt hr]
  exact ⟨by rw [← hdiv (m := m) hp, h, hdiv hq], by rw [← hmod (m := m) hp, h, hmod hq]⟩

theorem Butterfly.low_ne_high (hp : p.start < d) (hq : q.start < d) : p.low d ≠ q.high d := fun h => by
  obtain ⟨hblock, -⟩ := Butterfly.eq_of_block hp hq h
  omega

theorem Butterfly.eq_of_low_eq (hp : p.start < d) (hq : q.start < d) (h : p.low d = q.low d) : p = q := by
  obtain ⟨hblock, hstart⟩ := Butterfly.eq_of_block hp hq h
  have hk : p.k = q.k := by omega
  cases p
  cases q
  exact congrArg₂ Butterfly.mk hstart hk

theorem Butterfly.eq_of_high_eq (hp : p.start < d) (hq : q.start < d) (h : p.high d = q.high d) : p = q := by
  rw [Butterfly.high_eq, Butterfly.high_eq] at h
  exact Butterfly.eq_of_low_eq hp hq (Nat.add_right_cancel h)

/-- The body of R505's inner loop, for one butterfly of a level. -/
def Butterfly.run (tw : List Nat) (odd : Bool) (d : Nat) (p : Butterfly) (a : List Nat) : List Nat :=
  butterflyAt tw odd d p.start p.k a

/-- R505's difference over the integers is `butterflyDiff` (R12). -/
theorem emod_eq_butterflyDiff {x y : Nat} (hy : y < 2 ^ 16) :
    (((x : Int) + 3 * (Q : Int) - (y : Int)).emod (2 ^ 32)).toNat = butterflyDiff x y := by
  have hdef : butterflyDiff x y = (2 ^ 32 + (x + 3 * 12289) - y) % 2 ^ 32 := rfl
  have hemod : ((x : Int) + 3 * (Q : Int) - (y : Int)).emod (2 ^ 32) = ((x : Int) + 3 * 12289 - y) % 2 ^ 32 := rfl
  rw [hdef, hemod]
  omega

theorem Butterfly.run_eq (ha : ∀ x ∈ a, x < 2 ^ 16) :
    p.run tw odd d a = (a.set (p.low d) (butterflySum odd (wordAt a (p.low d)) (wordAt a (p.high d)))).set (p.high d)
      (butterflyTwiddle (wordAt tw p.k) (wordAt a (p.low d)) (wordAt a (p.high d))) := by
  have hlow : p.start + 2 * d * p.k = p.low d := by
    rw [Butterfly.low]
    ring
  have hword : wordAt a (p.high d) < 2 ^ 16 :=
    Nat.lt_succ_of_le (wordAt_le_of_forall_mem (fun x hx => Nat.le_of_lt_succ (ha x hx)) _)
  rw [Butterfly.run, butterflyAt]
  rw [hlow, ← Butterfly.high_eq, emod_eq_butterflyDiff hword]
  rfl

@[simp] theorem Butterfly.run_length (p : Butterfly) (a : List Nat) : (p.run tw odd d a).length = a.length := by
  simp [Butterfly.run, butterflyAt]

theorem Butterfly.run_lt (ha : ∀ x ∈ a, x < 2 ^ 16) : ∀ x ∈ p.run tw odd d a, x < 2 ^ 16 := by
  intro x hx
  rw [Butterfly.run_eq ha] at hx
  rcases List.mem_or_eq_of_mem_set hx with hx | rfl
  · rcases List.mem_or_eq_of_mem_set hx with hx | rfl
    · exact ha x hx
    · exact butterflySum_lt _ _ _
  · exact butterflyTwiddle_lt _ _ _

/-- A butterfly of the level on a list of n words: its start is below the distance, and its positions are in the list.
-/
structure Butterfly.Valid (d n : Nat) (p : Butterfly) : Prop where
  start_lt : p.start < d
  high_lt  : p.high d < n

theorem Butterfly.Valid.low_lt {n : Nat} (h : p.Valid d n) : p.low d < n := by
  have hhigh := h.high_lt
  rw [Butterfly.high_eq] at hhigh
  omega

/-- What butterfly p leaves at its own two positions, from the words of a. -/
structure Butterfly.Done (tw : List Nat) (odd : Bool) (d : Nat) (a b : List Nat) (p : Butterfly) : Prop where
  low  : wordAt b (p.low d) = butterflySum odd (wordAt a (p.low d)) (wordAt a (p.high d))
  high : wordAt b (p.high d) = butterflyTwiddle (wordAt tw p.k) (wordAt a (p.low d)) (wordAt a (p.high d))

/-- The words of a and of b at the two positions of p are the same. -/
structure Butterfly.Untouched (d : Nat) (a b : List Nat) (p : Butterfly) : Prop where
  low  : wordAt b (p.low d) = wordAt a (p.low d)
  high : wordAt b (p.high d) = wordAt a (p.high d)

theorem Butterfly.run_done (ha : ∀ x ∈ a, x < 2 ^ 16) (hp : p.Valid d a.length) :
    p.Done tw odd d a (p.run tw odd d a) := by
  have hne : p.high d ≠ p.low d := (Butterfly.low_ne_high hp.start_lt hp.start_lt).symm
  have hlen : p.high d < (a.set (p.low d) (butterflySum odd (wordAt a (p.low d)) (wordAt a (p.high d)))).length := by
    rw [List.length_set]
    exact hp.high_lt
  rw [Butterfly.run_eq ha]
  constructor
  · rw [wordAt_set _ _ _ _ hlen, if_neg hne, wordAt_set _ _ _ _ hp.low_lt, if_pos rfl]
  · rw [wordAt_set _ _ _ _ hlen, if_pos rfl]

theorem Butterfly.run_untouched (ha : ∀ x ∈ a, x < 2 ^ 16) (hp : p.Valid d a.length) (hq : q.start < d)
    (hne : p ≠ q) : q.Untouched d a (p.run tw odd d a) := by
  have hlen : p.high d < (a.set (p.low d) (butterflySum odd (wordAt a (p.low d)) (wordAt a (p.high d)))).length := by
    rw [List.length_set]
    exact hp.high_lt
  have hll : p.low d ≠ q.low d := fun h => hne (Butterfly.eq_of_low_eq hp.start_lt hq h)
  have hhh : p.high d ≠ q.high d := fun h => hne (Butterfly.eq_of_high_eq hp.start_lt hq h)
  have hlh : p.low d ≠ q.high d := Butterfly.low_ne_high hp.start_lt hq
  have hhl : p.high d ≠ q.low d := (Butterfly.low_ne_high hq hp.start_lt).symm
  rw [Butterfly.run_eq ha]
  constructor
  · rw [wordAt_set _ _ _ _ hlen, if_neg hhl, wordAt_set _ _ _ _ hp.low_lt, if_neg hll]
  · rw [wordAt_set _ _ _ _ hlen, if_neg hhh, wordAt_set _ _ _ _ hp.low_lt, if_neg hlh]

/-! ## The butterflies of a level one after the other -/

/-- The butterflies of a list, in its order, each in place. -/
def runButterflies (tw : List Nat) (odd : Bool) (d : Nat) (l : List Butterfly) (a : List Nat) : List Nat :=
  l.foldl (fun a p => p.run tw odd d a) a

variable {l : List Butterfly}

@[simp] theorem runButterflies_length (l : List Butterfly) (a : List Nat) :
    (runButterflies tw odd d l a).length = a.length := by
  induction l generalizing a with
  | nil => rfl
  | cons p l ih => exact (ih _).trans (p.run_length a)

theorem runButterflies_untouched (ha : ∀ x ∈ a, x < 2 ^ 16) (hl : ∀ p ∈ l, p.Valid d a.length) (hq : q.start < d)
    (hmem : q ∉ l) : q.Untouched d a (runButterflies tw odd d l a) := by
  induction l generalizing a with
  | nil => exact ⟨rfl, rfl⟩
  | cons p l ih =>
    have hp := hl p List.mem_cons_self
    have hfirst : q.Untouched d a (p.run tw odd d a) :=
      Butterfly.run_untouched ha hp hq (List.ne_of_not_mem_cons hmem).symm
    have hrest : q.Untouched d (p.run tw odd d a) (runButterflies tw odd d l (p.run tw odd d a)) :=
      ih (Butterfly.run_lt ha) (fun r hr => by rw [p.run_length]; exact hl r (List.mem_cons_of_mem p hr))
        (List.not_mem_of_not_mem_cons hmem)
    exact ⟨hrest.low.trans hfirst.low, hrest.high.trans hfirst.high⟩

/-- Each butterfly of a list without repetitions does its work on the words of the start: those before it have not
touched its words, and those after it do not. -/
theorem runButterflies_done (ha : ∀ x ∈ a, x < 2 ^ 16) (hl : ∀ p ∈ l, p.Valid d a.length) (hnodup : l.Nodup)
    (hmem : q ∈ l) : q.Done tw odd d a (runButterflies tw odd d l a) := by
  induction l generalizing a with
  | nil => exact absurd hmem List.not_mem_nil
  | cons p l ih =>
    obtain ⟨hp_notin, hnodup⟩ := List.nodup_cons.1 hnodup
    have hp := hl p List.mem_cons_self
    have hl' : ∀ r ∈ l, r.Valid d (p.run tw odd d a).length := fun r hr => by
      rw [p.run_length]
      exact hl r (List.mem_cons_of_mem p hr)
    have hlt : ∀ x ∈ p.run tw odd d a, x < 2 ^ 16 := Butterfly.run_lt ha
    rcases List.mem_cons.1 hmem with rfl | hq
    · have hdone : q.Done tw odd d a (q.run tw odd d a) := Butterfly.run_done ha hp
      have hrest : q.Untouched d _ (runButterflies tw odd d l (q.run tw odd d a)) :=
        runButterflies_untouched hlt hl' hp.start_lt hp_notin
      exact ⟨hrest.low.trans hdone.low, hrest.high.trans hdone.high⟩
    · have hne : p ≠ q := fun h => hp_notin (h ▸ hq)
      have hfirst : q.Untouched d a (p.run tw odd d a) :=
        Butterfly.run_untouched ha hp (hl q (List.mem_cons_of_mem p hq)).start_lt hne
      have hdone : q.Done tw odd d (p.run tw odd d a) (runButterflies tw odd d l (p.run tw odd d a)) :=
        ih hlt hl' hnodup hq
      obtain ⟨hlow, hhigh⟩ := hdone
      rw [hfirst.low, hfirst.high] at hlow hhigh
      exact ⟨hlow, hhigh⟩

/-! ## A level -/

/-- The butterflies of a level at distance d on n blocks, in the order of R505's loops over start and k. -/
def levelButterflies (d n : Nat) : List Butterfly :=
  (List.range d).flatMap fun start => (List.range n).map (Butterfly.mk start)

theorem mem_levelButterflies {n : Nat} : p ∈ levelButterflies d n ↔ p.start < d ∧ p.k < n := by
  simp only [levelButterflies, List.mem_flatMap, List.mem_map, List.mem_range]
  constructor
  · rintro ⟨start, hstart, k, hk, rfl⟩
    exact ⟨hstart, hk⟩
  · rintro ⟨hstart, hk⟩
    exact ⟨p.start, hstart, p.k, hk, rfl⟩

theorem levelButterflies_nodup (d n : Nat) : (levelButterflies d n).Nodup := by
  refine List.nodup_flatMap.2 ⟨fun start _ => ?_, ?_⟩
  · exact List.nodup_range.map fun k k' h => (Butterfly.mk.inj h).2
  · refine List.nodup_range.imp fun hne p hp hp' => ?_
    obtain ⟨k, -, rfl⟩ := List.mem_map.1 hp
    obtain ⟨k', -, h⟩ := List.mem_map.1 hp'
    exact hne (Butterfly.mk.inj h).1.symm

/-- The positions of a butterfly lie in its block. -/
theorem levelButterfly_valid {n : Nat} (hstart : p.start < d) (hlen : a.length = 2 * d * n) (hk : p.k < n) :
    p.Valid d a.length := by
  refine ⟨hstart, ?_⟩
  calc p.high d = d * (2 * p.k + 1) + p.start := rfl
    _ < d * (2 * p.k + 1) + d := Nat.add_lt_add_left hstart _
    _ = 2 * d * (p.k + 1) := by ring
    _ ≤ 2 * d * n := Nat.mul_le_mul_left _ hk
    _ = a.length := hlen.symm

theorem levelLoop_eq_runButterflies (tw : List Nat) (lvl : Nat) (a : List Nat) :
    levelLoop tw lvl a
      = runButterflies tw (lvl % 2 == 1) (2 ^ lvl) (levelButterflies (2 ^ lvl) (1024 / (2 * 2 ^ lvl))) a := by
  rw [levelLoop, runButterflies, levelButterflies, List.foldl_flatMap]
  simp only [List.foldl_map]
  rfl

/-- A level of NET is R505's loops at that level. -/
theorem levelLoop_eq_netLevel {lvl : Nat} (htw : tw.length = 512) (hlvl : lvl < 10) (ha : isBuffer a) :
    levelLoop tw lvl a = netLevel (lvl % 2 == 1) (2 ^ lvl) (tw.take (1024 / (2 * 2 ^ lvl))) a := by
  have hd : 0 < 2 ^ lvl := Nat.two_pow_pos lvl
  have hn : 1024 / (2 * 2 ^ lvl) ≤ 1024 / 2 := Nat.div_le_div_left (by omega) (by norm_num)
  have hlen : (tw.take (1024 / (2 * 2 ^ lvl))).length = 1024 / (2 * 2 ^ lvl) := by
    rw [List.length_take, htw, min_eq_left hn]
  have hblocks : a.length = 2 * 2 ^ lvl * (tw.take (1024 / (2 * 2 ^ lvl))).length :=
    ha.1.trans (length_take_blocks htw hlvl)
  rw [levelLoop_eq_runButterflies]
  refine eq_of_wordAt (by rw [runButterflies_length, netLevel_length _ _ _ _ hblocks]) fun x hx => ?_
  rw [runButterflies_length, hblocks] at hx
  have hdone : ∀ k v, k < (tw.take (1024 / (2 * 2 ^ lvl))).length → v < 2 ^ lvl →
      Butterfly.Done tw (lvl % 2 == 1) (2 ^ lvl) a
        (runButterflies tw (lvl % 2 == 1) (2 ^ lvl) (levelButterflies (2 ^ lvl) (1024 / (2 * 2 ^ lvl))) a) ⟨v, k⟩ := by
    intro k v hk hv
    refine runButterflies_done ha.2 (fun p hp => ?_) (levelButterflies_nodup _ _)
      (mem_levelButterflies.2 ⟨hv, hlen ▸ hk⟩)
    obtain ⟨hstart, hblock⟩ := mem_levelButterflies.1 hp
    exact levelButterfly_valid hstart (hblocks.trans (by rw [hlen])) hblock
  obtain ⟨k, hk, v, hv, rfl | rfl⟩ := exists_butterfly_position hd hx
  · rw [wordAt_netLevel_low hv hblocks hk]
    exact (hdone k v hk hv).low
  · rw [wordAt_netLevel_high hv hblocks hk, wordAt_take (hlen ▸ hk)]
    exact (hdone k v hk hv).high

end

end Sys2Proof.Machine
end

section
/-! The statement that the network is R505's loops. -/
namespace Sys2Proof.Machine

/-- Settles O42: level by level, each level keeping 1024 words of 16 bits. -/
theorem networkIsTheLoopsOfR505 : Obligations.NetworkIsTheLoopsOfR505 := by
  intro a tw ha htw
  have hlevels : ∀ n ≤ 10, isBuffer (netFrom tw n 0 a) ∧
      (List.range n).foldl (fun a lvl => levelLoop tw lvl a) a = netFrom tw n 0 a := by
    intro n hn
    induction n with
    | zero => exact ⟨ha, rfl⟩
    | succ n ih =>
      obtain ⟨hbuffer, hloop⟩ := ih (by omega)
      rw [List.range_succ, List.foldl_append, hloop, List.foldl_cons, List.foldl_nil, netFrom_succ, Nat.zero_add]
      exact ⟨isBuffer_netLevel (Nat.two_pow_pos n) (length_take_blocks htw (by omega)) hbuffer.1,
        levelLoop_eq_netLevel htw (by omega) hbuffer⟩
  exact (hlevels 10 le_rfl).2.symm

end Sys2Proof.Machine
end

section
/-! SUPPORT. The XOF stream (spec/43_sampling.md R700): a longer piece of it starts with the shorter ones. SHAKE-128
gives whole blocks of 168 bytes because every Keccak round leaves 25 lanes. -/
namespace Sys2Proof.Machine

/-! ## The shape of a Keccak state -/

/-- A Keccak state: five planes of five lanes. -/
def KeccakShape (a : List Plane) : Prop := a.length = 5 ∧ ∀ p ∈ a, p.length = 5

theorem Plane.shift_length (k : Nat) (p : Plane) : (p.shift k).length = p.length := by
  simp only [Plane.shift, List.length_append, List.length_drop, List.length_take]
  omega

theorem keccakShape_piStep (a : List Plane) : KeccakShape (piStep a) := by
  refine ⟨rfl, fun p hp => ?_⟩
  obtain ⟨y, -, rfl⟩ := List.mem_map.1 hp
  rfl

theorem keccakShape_chi {a : List Plane} (h : KeccakShape a) : KeccakShape (chi a) := by
  obtain ⟨hplanes, hlanes⟩ := h
  refine ⟨by rw [chi, List.length_map, hplanes], List.forall_mem_map.2 fun p hp => ?_⟩
  simp only [Plane.xor, List.length_zipWith, Plane.shift_length, hlanes p hp, min_self]

theorem keccakShape_iota {a : List Plane} (c : Lane) (h : KeccakShape a) : KeccakShape (iota c a) := by
  match a, h with
  | (v :: p) :: a, ⟨hplanes, hlanes⟩ =>
    refine ⟨hplanes, List.forall_mem_cons.2 ⟨hlanes (v :: p) List.mem_cons_self, fun q hq => ?_⟩⟩
    exact hlanes q (List.mem_cons_of_mem _ hq)
  | [] :: a, h => exact h
  | [], h => exact h

/-- A round ends in pi, chi and iota, so it leaves the shape whatever it started from. -/
theorem keccakShape_keccakRounds (n : Nat) (r : BitVec 8) (a : List Plane) :
    KeccakShape (keccakRounds (n + 1) r a) := by
  induction n generalizing r a with
  | zero => exact keccakShape_iota _ (keccakShape_chi (keccakShape_piStep _))
  | succ n ih => exact ih _ _

theorem keccakShape_keccakF (a : List Plane) : KeccakShape (keccakF a) := keccakShape_keccakRounds 23 1 a

theorem keccakShape_shakeAbsorb (seed : List Byte) : KeccakShape (shakeAbsorb seed) := keccakShape_keccakF _

/-! ## SHAKE-128 -/

/-- The bytes of a Keccak state that one block of SHAKE-128 takes. -/
def shakeBlock (a : List Plane) : List Byte := (a.flatten.flatMap laneBytes).take 168

theorem shakeBlock_length {a : List Plane} (h : KeccakShape a) : (shakeBlock a).length = 168 := by
  obtain ⟨hplanes, hlanes⟩ := h
  have hlane : ∀ v ∈ a.flatten, (laneBytes v).length = 8 := fun _ _ => rfl
  have hflat : a.flatten.length = 25 := by
    rw [List.length_flatten, List.map_congr_left hlanes, List.map_const', hplanes]
    rfl
  rw [shakeBlock, List.length_take, List.length_flatMap, List.map_congr_left hlane, List.map_const', hflat]
  rfl

theorem shakeSqueeze_succ (n : Nat) (a : List Plane) :
    shakeSqueeze (n + 1) a = shakeBlock a ++ shakeSqueeze n (keccakF a) := rfl

theorem shakeSqueeze_length {a : List Plane} (h : KeccakShape a) (n : Nat) : (shakeSqueeze n a).length = 168 * n := by
  induction n generalizing a with
  | zero => rfl
  | succ n ih => rw [shakeSqueeze_succ, List.length_append, shakeBlock_length h, ih (keccakShape_keccakF a)]; ring

theorem shakeSqueeze_prefix (a : List Plane) {m n : Nat} (h : m ≤ n) : shakeSqueeze m a <+: shakeSqueeze n a := by
  induction m generalizing a n with
  | zero => exact List.nil_prefix
  | succ m ih =>
    obtain ⟨n, rfl⟩ : ∃ k, n = k + 1 := ⟨n - 1, by omega⟩
    rw [shakeSqueeze_succ, shakeSqueeze_succ]
    exact (List.prefix_append_right_inj _).2 (ih (keccakF a) (by omega))

/-- A list and its continuations start with the same m elements, as far as it reaches. -/
theorem take_eq_take_of_isPrefix {α : Type} {l l' : List α} {m : Nat} (h : l <+: l') (hm : m ≤ l.length) :
    l'.take m = l.take m := by
  obtain ⟨t, rfl⟩ := h
  exact List.take_append_of_le_length hm

theorem shake128_take (seed : List Byte) {m n : Nat} (h : m ≤ n) : (shake128 seed n).take m = shake128 seed m := by
  have hlen : m ≤ (shakeSqueeze (m / 168 + 1) (shakeAbsorb seed)).length := by
    rw [shakeSqueeze_length (keccakShape_shakeAbsorb seed)]
    omega
  rw [shake128, shake128, List.take_take, min_eq_left h]
  exact take_eq_take_of_isPrefix (shakeSqueeze_prefix _ (by omega)) hlen

/-! ## The stream -/

theorem xofBytes_take (x : XofSource) (seed : List Byte) {m n : Nat} (h : m ≤ n) :
    (xofBytes x seed n).take m = xofBytes x seed m := by
  cases x with
  | shake128 => exact shake128_take seed h
  | playback head cycle => rw [xofBytes, xofBytes, ← List.map_take, List.take_range, min_eq_left h]
  | blackBox => rw [xofBytes, xofBytes, ← List.map_take, List.take_range, min_eq_left h]

theorem wordsOfBytes_take : ∀ (n : Nat) (bs : List Byte), wordsOfBytes (bs.take (2 * n)) = (wordsOfBytes bs).take n
  | 0, _ => rfl
  | _ + 1, [] => rfl
  | _ + 1, [_] => rfl
  | n + 1, lo :: hi :: bs => congrArg ((lo.toNat + 256 * hi.toNat) :: ·) (wordsOfBytes_take n bs)

theorem State.accepted_prefix (s : State) {m n : Nat} (h : m ≤ n) : s.accepted m <+: s.accepted n := by
  have hwords : s.xofWords m <+: s.xofWords n := by
    rw [State.xofWords, ← xofBytes_take _ _ (Nat.mul_le_mul_left 2 h), wordsOfBytes_take]
    exact List.take_prefix _ _
  exact hwords.filterMap _

/-- Once the stream has yielded 1024 coefficients, further words do not change them. -/
theorem State.take_accepted_eq {s : State} {m n : Nat} (hm : 1024 ≤ (s.accepted m).length)
    (hn : 1024 ≤ (s.accepted n).length) : (s.accepted m).take 1024 = (s.accepted n).take 1024 := by
  rcases Nat.le_total m n with h | h
  · exact (take_eq_take_of_isPrefix (s.accepted_prefix h) hm).symm
  · exact take_eq_take_of_isPrefix (s.accepted_prefix h) hn

end Sys2Proof.Machine
end

section
/-! SUPPORT. The engine's turns of UNIFORM (spec/43_sampling.md R701, R703; spec/49_system.md R905). -/
namespace Sys2Proof.Machine

/-- UNIFORM into rd runs, having examined n words of the stream of s, and nothing else is to come. -/
structure RunsUniform (rd : BufIdx) (s : State) (n : Nat) (t : State) : Prop where
  wf      : (Instr.uniform rd).wf t.cfg.npoly = true
  eng     : t.eng = .run (encode (.uniform rd)) n
  pending : t.pending = []
  stream  : ∀ words, t.accepted words = s.accepted words

section
variable {rd : BufIdx} {s t : State} {n : Nat}

theorem RunsUniform.step (h : RunsUniform rd s n t) : step t = exec (.uniform rd) t.begin :=
  step_of_latched h.eng (decodeWord_encode _) (.inl h.pending)

theorem RunsUniform.examined (h : RunsUniform rd s n t) : t.begin.examined = n := by
  rw [State.examined, State.begin_eng, h.eng]

theorem State.accepted_begin (t : State) (words : Nat) : t.begin.accepted words = t.accepted words := rfl

/-- The turn in which the words examined suffice. -/
theorem RunsUniform.completes (h : RunsUniform rd s n t) (henough : 1024 ≤ (s.accepted (n + 4096)).length) :
    ∃ u, Sys2Proof.Machine.step t = .next u ∧ u.eng = .idle ∧ u.status.done = true ∧
      u.poly rd = (s.accepted (n + 4096)).take 1024 := by
  obtain ⟨hends, -⟩ := uniformResult rd t.begin h.wf
  rw [h.examined, State.accepted_begin, h.stream] at hends
  obtain ⟨u, hexec, hwrote, hpoly, -⟩ := hends henough
  refine ⟨u, h.step.trans hexec, ?_, ?_, hpoly⟩ <;> rw [hwrote.rest]
  rfl

/-- The turn in which they do not. -/
theorem RunsUniform.goesOn (h : RunsUniform rd s n t) (hfew : (s.accepted (n + 4096)).length < 1024) :
    ∃ u, Sys2Proof.Machine.step t = .next u ∧ RunsUniform rd s (n + 4096) u := by
  obtain ⟨-, hgoesOn⟩ := uniformResult rd t.begin h.wf
  rw [h.examined, State.accepted_begin, h.stream] at hgoesOn
  refine ⟨_, h.step.trans (hgoesOn hfew), h.wf, rfl, ?_, h.stream⟩
  rw [State.begin_pending, h.pending, List.tail_nil]

/-- UNIFORM completes within the turns that examine enough words. -/
theorem RunsUniform.run_completes (k : Nat) (h : RunsUniform rd s n t)
    (henough : 1024 ≤ (s.accepted (n + 4096 * (k + 1))).length) :
    ∃ m u, m ≤ k + 1 ∧ Host.Core.run core m t = .next u ∧ u.eng = .idle ∧ u.status.done = true ∧
      u.poly rd = (s.accepted (n + 4096 * (k + 1))).take 1024 := by
  induction k generalizing n t with
  | zero =>
    obtain ⟨u, hstep, hends⟩ := h.completes henough
    exact ⟨1, u, le_rfl, run_core_succ hstep 0, hends⟩
  | succ k ih =>
    rcases Nat.lt_or_ge (s.accepted (n + 4096)).length 1024 with hfew | hnow
    · obtain ⟨u, hstep, hu⟩ := h.goesOn hfew
      have hwords : n + 4096 * (k + 1 + 1) = n + 4096 + 4096 * (k + 1) := by ring
      rw [hwords] at henough ⊢
      obtain ⟨m, v, hm, hrun, hends⟩ := ih hu henough
      exact ⟨m + 1, v, Nat.succ_le_succ hm, (run_core_succ hstep m).trans hrun, hends⟩
    · obtain ⟨u, hstep, hidle, hdone, hpoly⟩ := h.completes hnow
      exact ⟨1, u, by omega, run_core_succ hstep 0, hidle, hdone, hpoly.trans (State.take_accepted_eq hnow henough)⟩

/-- UNIFORM goes on for any number of turns on a stream that never yields enough. -/
theorem RunsUniform.run_goesOn (hfew : ∀ words, (s.accepted words).length < 1024) (m : Nat) (h : RunsUniform rd s n t) :
    ∃ u, Host.Core.run core m t = .next u ∧ u.eng ≠ .idle := by
  induction m generalizing n t with
  | zero => exact ⟨t, rfl, by rw [h.eng]; nofun⟩
  | succ m ih =>
    obtain ⟨u, hstep, hu⟩ := h.goesOn (hfew _)
    obtain ⟨v, hrun, hv⟩ := ih hu
    exact ⟨v, (run_core_succ hstep m).trans hrun, hv⟩

end

end Sys2Proof.Machine
end

section
/-! The statement about the completion of UNIFORM (spec/43_sampling.md R703). -/
namespace Sys2Proof.Machine

/-- Settles O52, by induction on the number of turns; further words do not change the first 1024 coefficients. -/
theorem uniformCompletesExactlyWhenItCan : Obligations.UniformCompletesExactlyWhenItCan := by
  intro rd s hwf heng hpending
  have hstart : RunsUniform rd s 0 s := ⟨hwf, heng, hpending, fun _ => rfl⟩
  refine ⟨fun words hwords => ?_, fun hfew n => hstart.run_goesOn hfew n⟩
  have hle : words ≤ 0 + 4096 * (words / 4096 + 1) := by omega
  have henough := hwords.trans (s.accepted_prefix hle).length_le
  obtain ⟨n, t, hn, hrun, hidle, hdone, hpoly⟩ := hstart.run_completes (words / 4096) henough
  exact ⟨n, t, hn, hrun, hidle, hdone, hpoly.trans (State.take_accepted_eq henough hwords)⟩

end Sys2Proof.Machine
end
